-- ==== Sys2Proof/Word.lean ====
section
/-! DEFINITION. The word types of the hardware: bytes, 16-bit addresses and lengths, byte strings. -/

namespace Sys2Proof

/-- A byte, the unit of every access (20_memory.md R67). -/
abbrev Byte := BitVec 8

/-- A u16: a device address or a length (00_scope.md R8, R13). -/
abbrev Half := BitVec 16

/-- A byte string in transmission order (00_scope.md R15). -/
abbrev Bytes := List (BitVec 8)

end Sys2Proof
end

