-- ==== Sys2Proof/Config.lean ====
section
/-! DEFINITION. What an implementation fixes (the parameters of 00_scope.md section 3 and 43_device_commands.md R191)
and the free values of the model. -/

namespace Sys2Proof.Config

/-- PAGE_SIZE, fixed (00_scope.md R7). -/
abbrev pageSize : Nat := 16

/-- STAGE_SIZE = 3 + PAGE_SIZE (00_scope.md R12). -/
abbrev stageSize : Nat := 3 + pageSize

/-- WRITE_CYCLE_MS (00_scope.md R10). -/
abbrev writeCycleMs : Nat := 4

/-- STATUS_WRITE_MS (00_scope.md R10). -/
abbrev statusWriteMs : Nat := 4

/-- The OPEN parameters but NUM_BUSES, which is the number of buses State holds (log entry 2). -/
structure Params where
  /-- DEVICE_SIZE (00_scope.md R9). -/
  deviceSize : Nat
  /-- READ_SETTLE (00_scope.md R10, 42_read_engine.md R178). -/
  readSettle : Bool
  /-- T_WC_DEVICE in milliseconds (43_device_commands.md R191). -/
  tWcDevice  : Nat
  /-- WP_N, the level of the device's write-protect pin: `false` is 0, asserted (43_device_commands.md R191). -/
  wpN        : Bool
  deriving DecidableEq, Repr

/-- The constraints on DEVICE_SIZE (00_scope.md R9). -/
abbrev Params.Legal (p : Params) : Prop :=
  pageSize ≤ p.deviceSize ∧ p.deviceSize ≤ 65536 ∧ p.deviceSize % pageSize = 0

/-- The defaults of 00_scope.md section 3; WP_N = 1 is DESIGN CHOICE, unsafe (log entry 2). -/
def Params.standard : Params :=
  { deviceSize := 2048, readSettle := true, tWcDevice := 4, wpN := true }

/-! Free values (00_scope.md R19): no body, so nothing can be proved of a value. Each is applied to the counter DRAWS of
State (log entry 8). -/

/-- A free bit. -/
opaque freeBit : Nat → Bool

/-- A free byte. -/
opaque freeByte : Nat → BitVec 8

/-- A free u16. -/
opaque freeHalf : Nat → BitVec 16

/-- A free natural number. -/
opaque freeNat : Nat → Nat

/-- The transport's success answer to a transmit exchange when no scripted answer is left
(00_scope.md R16, 60_exceptions.md R250; log entry 6). -/
opaque txAnswer : Nat → Bool

/-- How many bytes the transport delivers in a receive exchange when no scripted answer is left, before the cap at the
number asked (60_exceptions.md R250; log entry 6). -/
opaque rxAnswer : Nat → Nat

end Sys2Proof.Config
end

