-- ==== Sys2Proof/Syntax.lean ====
section
/-! DEFINITION. The instructions: one constructor per row of spec/opcode_table.json. -/

namespace Sys2Proof

/-- The fields of a 64-bit request descriptor (30_encoding.md R100). -/
structure Descriptor where
  op    : BitVec 3
  rsv0  : BitVec 5
  value : BitVec 8
  addr  : BitVec 16
  len   : BitVec 16
  bus   : BitVec 8
  rsv1  : BitVec 8
  deriving DecidableEq, Repr

/-- The five host operations (00_scope.md R3, 30_encoding.md R101) and the six device frames (30_encoding.md R92). A request
carries all four of its descriptor's fields, the ones the operation ignores too (R102), since DECODE latches them all (R243). -/
inductive Instr where
  /-- WRITE (41_page_write.md R147). -/
  | write (bus : BitVec 8) (addr len : BitVec 16) (value : BitVec 8)
  /-- READ (42_read_engine.md R176). -/
  | read (bus : BitVec 8) (addr len : BitVec 16) (value : BitVec 8)
  /-- READ_BYTE (42_read_engine.md R172). -/
  | readByte (bus : BitVec 8) (addr len : BitVec 16) (value : BitVec 8)
  /-- READ_STATUS (40_status_accessor.md R121). -/
  | readStatus (bus : BitVec 8) (addr len : BitVec 16) (value : BitVec 8)
  /-- WRITE_STATUS (40_status_accessor.md R126). -/
  | writeStatus (bus : BitVec 8) (addr len : BitVec 16) (value : BitVec 8)
  /-- The WRSR frame (43_device_commands.md R197). -/
  | wrsr (value : BitVec 8)
  /-- The WRITE frame (43_device_commands.md R199). -/
  | writeFrame (addr : BitVec 16) (data : List (BitVec 8))
  /-- The READ frame (43_device_commands.md R198). -/
  | readFrame (addr : BitVec 16)
  /-- The WRDI frame (43_device_commands.md R196). -/
  | wrdi
  /-- The RDSR frame (43_device_commands.md R195). -/
  | rdsr
  /-- The WREN frame (43_device_commands.md R194). -/
  | wren
  deriving DecidableEq, Repr

end Sys2Proof
end

