-- ==== Sys2Proof/WellFormed.lean ====
section
/-! DEFINITION. Which instructions are of this block's formats (30_encoding.md R91). -/

namespace Sys2Proof

/-- FCAD carries at most PAGE_SIZE data bytes (30_encoding.md R91, R95). -/
def Instr.dataFits : Instr → Bool
  | .writeFrame _ data => decide (data.length ≤ Config.pageSize)
  | .write _ _ _ _ | .read _ _ _ _ | .readByte _ _ _ _ | .readStatus _ _ _ _ | .writeStatus _ _ _ _
  | .wrsr _ | .readFrame _ | .wrdi | .rdsr | .wren => true

/-- An FCAD data run never crosses a page (30_encoding.md R95, 41_page_write.md R152). -/
def Instr.dataInPage : Instr → Bool
  | .writeFrame addr data => decide (addr.toNat % Config.pageSize + data.length ≤ Config.pageSize)
  | .write _ _ _ _ | .read _ _ _ _ | .readByte _ _ _ _ | .readStatus _ _ _ _ | .writeStatus _ _ _ _
  | .wrsr _ | .readFrame _ | .wrdi | .rdsr | .wren => true

/-- A well-formed instruction: every request, and every frame the block may send. A longer WRITE frame is no frame of the
block, but the device still answers it (43_device_commands.md R199; log entry 26). -/
def Instr.wellFormed (i : Instr) : Bool := i.dataFits && i.dataInPage

end Sys2Proof
end

