-- ==== Sys2Proof/Decode.lean ====
section
/-! DEFINITION. Decoding descriptors and frames (30_encoding.md), total and rejecting by name, and the encoder. -/

namespace Sys2Proof

/-! ## Bit fields and byte order -/

/-- `hi8(a) = a[15:8]` (00_scope.md R14). -/
def hi8 (a : BitVec 16) : BitVec 8 := a.extractLsb' 8 8

/-- `lo8(a) = a[7:0]` (00_scope.md R14). -/
def lo8 (a : BitVec 16) : BitVec 8 := a.extractLsb' 0 8

/-- The address a receiver assembles, high byte first (30_encoding.md R93). -/
def joinAddr (h l : BitVec 8) : BitVec 16 := h ++ l

/-! ## What is decoded -/

/-- An encoded instruction: a request descriptor, or the bytes of one frame as its Deselect ends it (30_encoding.md R96). -/
inductive Encoded where
  | descriptor (w : BitVec 64)
  | frame (bytes : List (BitVec 8))
  deriving DecidableEq, Repr

/-- Why bits are no instruction. -/
inductive DecodeError where
  /-- OP is 0b101, 0b110 or 0b111 (30_encoding.md R103). -/
  | reservedOp
  /-- RSV0 or RSV1 is not zero (30_encoding.md R103). -/
  | reservedBits
  /-- A frame with no byte (43_device_commands.md R202). -/
  | emptyFrame
  /-- Byte 0 is not one of the six opcodes (30_encoding.md R98). -/
  | reservedOpcode
  /-- The frame's length is not its format's (43_device_commands.md R193). -/
  | wrongLength
  deriving DecidableEq, Repr

/-- What decoding answers. -/
inductive Decoded where
  | instr (i : Instr)
  | rejected (e : DecodeError)
  deriving DecidableEq, Repr

/-! ## Operation codes -/

/-- 30_encoding.md R101. -/
def opWrite : BitVec 3 := 0b000#3
/-- 30_encoding.md R101. -/
def opRead : BitVec 3 := 0b001#3
/-- 30_encoding.md R101. -/
def opReadByte : BitVec 3 := 0b010#3
/-- 30_encoding.md R101. -/
def opReadStatus : BitVec 3 := 0b011#3
/-- 30_encoding.md R101. -/
def opWriteStatus : BitVec 3 := 0b100#3

/-- 30_encoding.md R92. -/
def codeWrsr : BitVec 8 := 0x01#8
/-- 30_encoding.md R92. -/
def codeWrite : BitVec 8 := 0x02#8
/-- 30_encoding.md R92. -/
def codeRead : BitVec 8 := 0x03#8
/-- 30_encoding.md R92. -/
def codeWrdi : BitVec 8 := 0x04#8
/-- 30_encoding.md R92. -/
def codeRdsr : BitVec 8 := 0x05#8
/-- 30_encoding.md R92. -/
def codeWren : BitVec 8 := 0x06#8

/-! ## Decoding -/

/-- The fields of a descriptor word (30_encoding.md R100). -/
def splitDescriptor (w : BitVec 64) : Descriptor :=
  { op    := w.extractLsb' 0 3
    rsv0  := w.extractLsb' 3 5
    value := w.extractLsb' 8 8
    addr  := w.extractLsb' 16 16
    len   := w.extractLsb' 32 16
    bus   := w.extractLsb' 48 8
    rsv1  := w.extractLsb' 56 8 }

/-- The operation of a descriptor: OP with RSV0 and RSV1 zero (30_encoding.md R101, R103). -/
def decodeFields (d : Descriptor) : Decoded :=
  if d.rsv0 ≠ 0 ∨ d.rsv1 ≠ 0 then .rejected .reservedBits
  else if d.op = opWrite then .instr (.write d.bus d.addr d.len d.value)
  else if d.op = opRead then .instr (.read d.bus d.addr d.len d.value)
  else if d.op = opReadByte then .instr (.readByte d.bus d.addr d.len d.value)
  else if d.op = opReadStatus then .instr (.readStatus d.bus d.addr d.len d.value)
  else if d.op = opWriteStatus then .instr (.writeStatus d.bus d.addr d.len d.value)
  else .rejected .reservedOp

/-- Decoding a request descriptor (30_encoding.md R100 to R103). -/
def decodeRequest (w : BitVec 64) : Decoded := decodeFields (splitDescriptor w)

/-- Decoding a frame by its byte 0 and its length (30_encoding.md R91, R92; 43_device_commands.md R193). -/
def decodeFrame : List (BitVec 8) → Decoded
  | [] => .rejected .emptyFrame
  | op :: rest =>
    if op = codeWrsr then
      match rest with
      | [v] => .instr (.wrsr v)
      | _ => .rejected .wrongLength
    else if op = codeWrite then
      match rest with
      | h :: l :: data => .instr (.writeFrame (joinAddr h l) data)
      | _ => .rejected .wrongLength
    else if op = codeRead then
      match rest with
      | [h, l] => .instr (.readFrame (joinAddr h l))
      | _ => .rejected .wrongLength
    else if op = codeWrdi then
      match rest with
      | [] => .instr .wrdi
      | _ => .rejected .wrongLength
    else if op = codeRdsr then
      match rest with
      | [] => .instr .rdsr
      | _ => .rejected .wrongLength
    else if op = codeWren then
      match rest with
      | [] => .instr .wren
      | _ => .rejected .wrongLength
    else .rejected .reservedOpcode

/-- Decoding, total on any bits. -/
def decode : Encoded → Decoded
  | .descriptor w => decodeRequest w
  | .frame bytes => decodeFrame bytes

/-! ## Encoding -/

/-- `RSV1<<56 | BUS<<48 | LEN<<32 | ADDR<<16 | VALUE<<8 | RSV0<<3 | OP` (30_encoding.md R100). -/
def joinDescriptor (d : Descriptor) : BitVec 64 :=
  d.rsv1 ++ d.bus ++ d.len ++ d.addr ++ d.value ++ d.rsv0 ++ d.op

/-- The descriptor of a request with reserved fields zero. -/
def requestFields (op : BitVec 3) (bus : BitVec 8) (addr len : BitVec 16) (value : BitVec 8) : Descriptor :=
  { op := op, rsv0 := 0, value := value, addr := addr, len := len, bus := bus, rsv1 := 0 }

/-- The encoding of an instruction (30_encoding.md R91 to R95, R100, R101). -/
def encode : Instr → Encoded
  | .write bus addr len value => .descriptor (joinDescriptor (requestFields opWrite bus addr len value))
  | .read bus addr len value => .descriptor (joinDescriptor (requestFields opRead bus addr len value))
  | .readByte bus addr len value => .descriptor (joinDescriptor (requestFields opReadByte bus addr len value))
  | .readStatus bus addr len value => .descriptor (joinDescriptor (requestFields opReadStatus bus addr len value))
  | .writeStatus bus addr len value => .descriptor (joinDescriptor (requestFields opWriteStatus bus addr len value))
  | .wrsr value => .frame [codeWrsr, value]
  | .writeFrame addr data => .frame (codeWrite :: hi8 addr :: lo8 addr :: data)
  | .readFrame addr => .frame [codeRead, hi8 addr, lo8 addr]
  | .wrdi => .frame [codeWrdi]
  | .rdsr => .frame [codeRdsr]
  | .wren => .frame [codeWren]

/-! ## The opcode table's words -/

/-- The fixed part of a frame, from its byte 0 (30_encoding.md R96). -/
def fixedLength (op : BitVec 8) : Nat :=
  if op = codeWrsr then 2
  else if op = codeWrite ∨ op = codeRead then 3
  else 1

/-- The `k` lowest bytes of `w`, least significant first. -/
def tableBytes : Nat → Nat → List (BitVec 8)
  | 0, _ => []
  | k + 1, w => BitVec.ofNat 8 w :: tableBytes k (w / 256)

/-- The bits of an opcode-table row as this hardware holds them: a 64-bit descriptor, or a frame's bytes, at least as many as
its fixed part. -/
def tableEncoded (nbits w : Nat) : Encoded :=
  if nbits < 64 then .frame (tableBytes (max (nbits / 8) (fixedLength (BitVec.ofNat 8 w))) w)
  else .descriptor (BitVec.ofNat 64 w)

/-- The instruction the decoder reads from an opcode-table row's bits. -/
def decodeTableWord (nbits w : Nat) : Option Instr :=
  match decode (tableEncoded nbits w) with
  | .instr i => some i
  | .rejected _ => none

end Sys2Proof
end

