-- ==== Sys2Proof/Machine/State.lean ====
section
/-! DEFINITION. The state of the block, its chip-select lines, the devices, the caller's buffers and the inputs of a run; the
reasons a step stops; the state after reset. -/

namespace Sys2Proof.Machine

/-- The 26 labels of PHASE (10_state.md R32). -/
inductive Phase where
  | idle | decode | wPlan
  | wEnSel | wEnTx | wEnDesel
  | wSel | wTx | wDesel | wDelay
  | rSel | rCmd | rData | rDesel | rDelay
  | sSel | sCmd | sData | sDesel
  | wsEnSel | wsEnTx | wsEnDesel
  | wsSel | wsTx | wsDesel | wsDelay
  deriving DecidableEq, Repr

/-- A transport event with its answer (00_scope.md R16, R20). -/
inductive Event where
  | select (bus : BitVec 8)
  | deselect (bus : BitVec 8)
  | tx (bus : BitVec 8) (bytes : List (BitVec 8)) (ok : Bool)
  /-- A receive exchange of `n` bytes that delivered `got`; it succeeded exactly when `got` has `n` bytes (R250). -/
  | rx (bus : BitVec 8) (n : Nat) (got : List (BitVec 8))
  | delay (ms : Nat)
  deriving DecidableEq, Repr

/-- What the host does next (60_exceptions.md R244, R256). -/
inductive HostAction where
  /-- Issue a request and wait for its result (R243, R249): one step runs it whole. `cut` is the number of labelled lines after
  which the platform's reset lands inside it (70_reset_and_hazards.md R261), if any. -/
  | request (desc : BitVec 64) (src dst : List (BitVec 8)) (cut : Option Nat)
  /-- The same request with one labelled line a step (log entry 1). -/
  | requestByLine (desc : BitVec 64) (src dst : List (BitVec 8)) (cut : Option Nat)
  /-- `WAIT ms` (R244). -/
  | wait (ms : Nat)
  /-- Reset the block while it is idle (70_reset_and_hazards.md R260). -/
  | reset
  /-- Drive one transaction directly at the device on `bus`: transmit `bytes`, then one receive exchange per entry of `rxs`
  (95_test_vectors.md Part 6; log entry 13). -/
  | frame (bus : BitVec 8) (bytes : List (BitVec 8)) (rxs : List Nat)
  deriving DecidableEq, Repr

/-- The reference EEPROM (43_device_commands.md R190; 10_state.md R41 to R43). WIP is not stored: it is 1 exactly when
WIP_MS > 0. -/
structure Device where
  /-- MEM, in canonical form (`Memory.wf`). -/
  mem       : List Host.Cell
  wpen      : Bool
  bp1       : Bool
  bp0       : Bool
  wel       : Bool
  /-- WIP_MS, the remaining write-cycle time. -/
  wipMs     : Nat
  /-- FRAME, the bytes the block sent in the current transaction. -/
  frame     : List (BitVec 8)
  taint     : Bool
  selected  : Bool
  /-- The read pointer, as the count of bytes already output in this frame (43_device_commands.md R198; log entry 16). -/
  readCount : Nat
  deriving DecidableEq, Repr

/-- One bus: its chip-select line (10_state.md R38) and its device (43_device_commands.md R190). -/
structure BusUnit where
  cs  : Bool
  dev : Device
  deriving DecidableEq, Repr

/-- The whole state (10_state.md R30). -/
structure State where
  -- Chip-select lines and devices, one per bus: NUM_BUSES is the length (00_scope.md R11).
  buses    : List BusUnit
  -- Observation.
  /-- The transport trace of the current or last request (00_scope.md R20). -/
  trace    : List Event
  -- Inputs of the run (10_state.md R47).
  /-- DRAWS: the next free value's number (00_scope.md R19; log entry 8). -/
  draws    : Nat
  /-- The transport's coming answers to transmit exchanges (60_exceptions.md R250; log entry 6). -/
  txAnswers : List Bool
  /-- How many bytes the transport's coming receive exchanges deliver, before the cap at the number asked. -/
  rxAnswers : List Nat
  /-- The host's coming actions, oldest first (60_exceptions.md R248). -/
  host     : List HostAction
  /-- How many labelled lines run before the platform's reset lands, if it does (70_reset_and_hazards.md R261). -/
  resetIn  : Option Nat
  /-- The open parameters (log entry 2). -/
  par      : Config.Params
  -- The sequencer and the latched request (10_state.md R32, R33).
  phase    : Phase
  reqOp    : BitVec 3
  reqBus   : BitVec 8
  reqAddr  : BitVec 16
  reqLen   : BitVec 16
  reqValue : BitVec 8
  /-- The descriptor's reserved fields, which DECODE checks (60_exceptions.md R234; log entry 12). -/
  reqRsv0  : BitVec 5
  reqRsv1  : BitVec 8
  -- The staging buffer (10_state.md R36).
  stage    : List (BitVec 8)
  stageLen : Nat
  -- Transfer answers (10_state.md R35).
  xferOk   : Bool
  rxByte   : BitVec 8
  -- The splitter (10_state.md R34).
  curAddr  : BitVec 16
  curOff   : BitVec 16
  remLen   : BitVec 16
  pageRem  : Nat
  chunkLen : Nat
  -- The result record (10_state.md R37), and how many have been posted (60_exceptions.md R241; log entry 22).
  resultStatus : BitVec 8
  resultValue  : BitVec 8
  posted   : Nat
  -- The caller's buffers (10_state.md R46; log entry 28).
  src      : List (BitVec 8)
  dst      : List (BitVec 8)
  -- A frame driven directly at a device (log entry 13).
  benchBus : BitVec 8
  benchRx  : List Nat
  benchGot : List (List (BitVec 8))
  deriving DecidableEq, Repr

/-- The model faults of 60_exceptions.md R235 and 00_scope.md R17: the machine stops and no later request runs. Safe: the
block itself would go on with bytes outside the caller's buffer. -/
inductive Fault where
  /-- SOURCE_OVERRUN: raised by DECODE of a WRITE whose SRC is shorter than LEN, and by a read of SRC outside it (safe). -/
  | sourceOverrun
  /-- DEST_OVERRUN: raised by DECODE of a READ whose DST is shorter than LEN, and by a write of DST outside it (safe). -/
  | destOverrun
  deriving DecidableEq, Repr

/-- Why there is no meaning. -/
inductive Refusal where
  /-- Raised by an arm of exec that has no meaning yet (safe). -/
  | notModelled (mnemonic : String)
  deriving DecidableEq, Repr

/-- A device at power-up (43_device_commands.md R206); the nonvolatile contents are DESIGN CHOICE, unsafe (log entry 5). -/
def Device.powerUp : Device :=
  { mem := [], wpen := false, bp1 := false, bp0 := false, wel := false, wipMs := 0,
    frame := [], taint := false, selected := false, readCount := 0 }

/-- The machine right after reset (10_state.md R48, 70_reset_and_hazards.md R260): PHASE = IDLE and every CS = 0. The values
R48 leaves unspecified are DESIGN CHOICE, unsafe (log entries 2, 3, 5, 6). -/
def State.reset : State :=
  { phase := .idle, reqOp := 0, reqBus := 0, reqAddr := 0, reqLen := 0, reqValue := 0, reqRsv0 := 0, reqRsv1 := 0,
    src := [], dst := [], curAddr := 0, curOff := 0, remLen := 0, pageRem := 16, chunkLen := 0,
    xferOk := false, rxByte := 0, stage := List.replicate 19 0, stageLen := 0, resultStatus := 0, resultValue := 0,
    buses := [{ cs := false, dev := Device.powerUp }], par := Config.Params.standard,
    host := [], resetIn := none, txAnswers := [], rxAnswers := [], draws := 0, trace := [], posted := 0,
    benchBus := 0, benchRx := [], benchGot := [] }

end Sys2Proof.Machine
end

