-- ==== Sys2Proof/Machine/Flags.lean ====
section
/-! DEFINITION. The status codes of the result record and the device's status flags. -/

namespace Sys2Proof.Machine

/-- The outcomes a request posts (60_exceptions.md R231). -/
inductive Status where
  | ok | transportFail | noData | invalidArgument | invalidRequest
  deriving DecidableEq, Repr

/-- The code RESULT_STATUS holds (60_exceptions.md R231). -/
def Status.code : Status → BitVec 8
  | .ok => 0#8
  | .transportFail => 1#8
  | .noData => 2#8
  | .invalidArgument => 3#8
  | .invalidRequest => 4#8

/-- The result word `RESULT_VALUE<<8 | RESULT_STATUS` (30_encoding.md R104). -/
def resultWord (s : State) : BitVec 16 := s.resultValue ++ s.resultStatus

/-- WIP = 1 exactly when WIP_MS > 0 (10_state.md R43, 43_device_commands.md R205). -/
def Device.wip (d : Device) : Bool := decide (0 < d.wipMs)

/-- `WPEN<<7 | BP1<<3 | BP0<<2 | WEL<<1 | WIP`, bits 6:4 zero (10_state.md R41, 43_device_commands.md R195). -/
def Device.statusByte (d : Device) : BitVec 8 :=
  BitVec.ofBool d.wpen ++ 0#3 ++ BitVec.ofBool d.bp1 ++ BitVec.ofBool d.bp0 ++ BitVec.ofBool d.wel ++ BitVec.ofBool d.wip

/-- The bits of the status register WRSR writes: WPEN, BP1, BP0 (43_device_commands.md R197). -/
def Device.writeStatusBits (v : BitVec 8) (d : Device) : Device :=
  { d with wpen := v.getLsbD 7, bp1 := v.getLsbD 3, bp0 := v.getLsbD 2 }

/-- The status register is write-protected: WPEN = 1 and WP_N = 0 (43_device_commands.md R197). -/
def Device.statusLocked (par : Config.Params) (d : Device) : Bool := d.wpen && !par.wpN

/-- Block protection of an address (43_device_commands.md R200). -/
def Device.protects (par : Config.Params) (d : Device) (a : Nat) : Bool :=
  match d.bp1, d.bp0 with
  | false, false => false
  | false, true => decide (3 * par.deviceSize / 4 ≤ a)
  | true, false => decide (par.deviceSize / 2 ≤ a)
  | true, true => true

end Sys2Proof.Machine
end

