-- ==== Sys2Proof/Machine/Memory.lean ====
section
/-! DEFINITION. The EEPROM array as a canonical list of cells (10_state.md R42, 20_memory.md R62). -/

namespace Sys2Proof.Machine

/-- What an unlisted address reads as: an erased byte. DESIGN CHOICE, unsafe (log entry 5). -/
def Memory.blank : BitVec 8 := 0xFF#8

/-- The canonical form: addresses strictly rising, no entry equal to what an unlisted address reads as. -/
abbrev Memory.wf (m : List Host.Cell) : Prop :=
  m.Pairwise (fun x y => x.1 < y.1) ∧ ∀ c ∈ m, c.2 ≠ Memory.blank

/-- Every listed address is one of the array's (20_memory.md R61). -/
abbrev Memory.within (size : Nat) (m : List Host.Cell) : Prop := ∀ c ∈ m, c.1 < size

/-- The byte at an address. -/
def Memory.read : List Host.Cell → Nat → BitVec 8
  | [], _ => Memory.blank
  | (k, v) :: rest, a => if a = k then v else Memory.read rest a

/-- Storing one byte. -/
def Memory.write : List Host.Cell → Nat → BitVec 8 → List Host.Cell
  | [], a, v => if v = Memory.blank then [] else [(a, v)]
  | (k, w) :: rest, a, v =>
    if a < k then (if v = Memory.blank then (k, w) :: rest else (a, v) :: (k, w) :: rest)
    else if a = k then (if v = Memory.blank then rest else (a, v) :: rest)
    else (k, w) :: Memory.write rest a v

/-- `n` bytes from address `a` on, wrapping from the last address of the array to 0 (43_device_commands.md R198). -/
def Memory.readRun (m : List Host.Cell) (size a n : Nat) : List (BitVec 8) :=
  (List.range n).map fun k => Memory.read m ((a + k) % size)

/-- Storing a data run in the page at `base` from offset `o` on, in order, wrapping within the page
(43_device_commands.md R199). -/
def Memory.writePage (m : List Host.Cell) (base o : Nat) : List (BitVec 8) → List Host.Cell
  | [] => m
  | d :: rest => Memory.writePage (Memory.write m (base + o % Config.pageSize) d) base (o + 1) rest

end Sys2Proof.Machine
end

