-- ==== Sys2Proof/Machine/Device.lean ====
section
/-! DEFINITION. The reference EEPROM: one operation per transport event (43_device_commands.md R192) and one per command.
`k` is the number of the first free value an operation may draw (log entry 8). -/

namespace Sys2Proof.Machine

/-- `n` free bytes. -/
def anyBytes (k n : Nat) : List (BitVec 8) := (List.range n).map fun i => Config.freeByte (k + i)

/-- How many free values a Deselect may draw: the 16 bytes of a page and five bits, with room to spare. -/
def deselectDraws : Nat := 32

/-- The page a device address lies in, after the device drops the address bits above its size
(43_device_commands.md R199, R204). -/
def devicePageBase (par : Config.Params) (a : BitVec 16) : Nat :=
  let A := a.toNat % par.deviceSize
  A - A % Config.pageSize

/-- The offset of a device address in its page (43_device_commands.md R199, R204). -/
def devicePageOffset (par : Config.Params) (a : BitVec 16) : Nat :=
  a.toNat % par.deviceSize % Config.pageSize

/-! ## The commands, at the Deselect that ends an untainted frame -/

/-- WREN (43_device_commands.md R194). -/
def Device.doWren (d : Device) : Device := if d.wip then d else { d with wel := true }

/-- WRDI (43_device_commands.md R196). -/
def Device.doWrdi (d : Device) : Device := if d.wip then d else { d with wel := false }

/-- WRSR (43_device_commands.md R197). -/
def Device.doWrsr (par : Config.Params) (k : Nat) (v : BitVec 8) (d : Device) : Device :=
  if d.wip then d
  else if d.wel = false then d
  else if d.statusLocked par then { d with wel := Config.freeBit k }
  else { d.writeStatusBits v with wel := false, wipMs := par.tWcDevice }

/-- WRITE (43_device_commands.md R199). -/
def Device.doWrite (par : Config.Params) (k : Nat) (a : BitVec 16) (data : List (BitVec 8)) (d : Device) : Device :=
  if d.wip then d
  else if d.wel = false then d
  else if data = [] then d
  else if d.protects par (devicePageBase par a) then { d with wel := Config.freeBit k }
  else { d with mem := Memory.writePage d.mem (devicePageBase par a) (devicePageOffset par a) data,
                wel := false, wipMs := par.tWcDevice }

/-- The effect of an untainted frame at its Deselect; a frame that is no command changes nothing
(43_device_commands.md R192, R202). -/
def Device.command (par : Config.Params) (k : Nat) (d : Device) : Device :=
  match decodeFrame d.frame with
  | .instr .wren => d.doWren
  | .instr .wrdi => d.doWrdi
  | .instr (.wrsr v) => d.doWrsr par k v
  | .instr (.writeFrame a data) => d.doWrite par k a data
  | _ => d

/-! ## A tainted frame (43_device_commands.md R203) -/

/-- `WIP_MS is 0 or T_WC_DEVICE`. -/
def anyCycle (par : Config.Params) (k : Nat) : Nat := if Config.freeBit k then par.tWcDevice else 0

/-- The effect of a frame one of whose exchanges failed: what its intended command could change is free
(43_device_commands.md R203; log entries 17 and 18). -/
def Device.garbled (par : Config.Params) (k : Nat) (d : Device) : Device :=
  match decodeFrame d.frame with
  | .instr .wren => { d with wel := Config.freeBit k }
  | .instr .wrdi => { d with wel := Config.freeBit k }
  | .instr (.wrsr _) =>
    { d with wel := Config.freeBit k, wipMs := anyCycle par (k + 1),
             wpen := Config.freeBit (k + 2), bp1 := Config.freeBit (k + 3), bp0 := Config.freeBit (k + 4) }
  | .instr (.writeFrame a _) =>
    { d with wel := Config.freeBit k, wipMs := anyCycle par (k + 1),
             mem := Memory.writePage d.mem (devicePageBase par a) 0 (anyBytes k Config.pageSize) }
  | _ => d

/-! ## The events (43_device_commands.md R192) -/

/-- `on Select(b)`. -/
def Device.onSelect (d : Device) : Device :=
  { d with selected := true, frame := [], taint := false, readCount := 0 }

/-- `on Tx(b, xs) -> ok`. -/
def Device.onTx (xs : List (BitVec 8)) (ok : Bool) (d : Device) : Device :=
  { d with frame := d.frame ++ xs, taint := d.taint || !ok }

/-- The `n` bytes the device outputs `on Rx(b, n)` (43_device_commands.md R192, R195, R198, R201, R202). -/
def Device.output (par : Config.Params) (k n : Nat) (d : Device) : List (BitVec 8) :=
  if d.taint then anyBytes k n
  else match decodeFrame d.frame with
    | .instr .rdsr => List.replicate n d.statusByte
    | .instr (.readFrame a) =>
      if d.wip then anyBytes k n
      else Memory.readRun d.mem par.deviceSize (a.toNat % par.deviceSize + d.readCount) n
    | _ => anyBytes k n

/-- A successful receive exchange moves the read pointer on (43_device_commands.md R198). -/
def Device.onRx (n : Nat) (d : Device) : Device := { d with readCount := d.readCount + n }

/-- `on Deselect(b)`. -/
def Device.onDeselect (par : Config.Params) (k : Nat) (d : Device) : Device :=
  let d' := if d.selected then (if d.taint then d.garbled par k else d.command par k) else d
  { d' with selected := false, frame := [], readCount := 0 }

/-- `on Delay(ms)`, and a host wait (43_device_commands.md R205). -/
def Device.passTime (ms : Nat) (d : Device) : Device := { d with wipMs := d.wipMs - ms }

end Sys2Proof.Machine
end

