-- ==== Sys2Proof/Machine/Operands.lean ====
section
/-! DEFINITION. Operands of a request: the checks DECODE applies, the splitter's arithmetic, the frames the block stages and
its accesses to the caller's buffers. -/

namespace Sys2Proof.Machine

/-! ## The checks of DECODE (60_exceptions.md R236) -/

/-- NUM_BUSES (00_scope.md R11). -/
def State.numBuses (s : State) : Nat := s.buses.length

/-- The descriptor check (60_exceptions.md R234). -/
def State.descriptorOk (s : State) : Bool :=
  decide (s.reqRsv0 = 0 ∧ s.reqRsv1 = 0 ∧
    (s.reqOp = opWrite ∨ s.reqOp = opRead ∨ s.reqOp = opReadByte ∨ s.reqOp = opReadStatus ∨ s.reqOp = opWriteStatus))

/-- The bus check (60_exceptions.md R233). -/
def State.busOk (s : State) : Bool := decide (s.reqBus.toNat < s.numBuses)

/-- A range of `len` bytes at `addr` lies in the array, computed in unbounded naturals (60_exceptions.md R232). -/
def inBounds (size addr len : Nat) : Bool := decide (addr < size ∧ addr + len ≤ size)

/-- The bounds check of the latched request (60_exceptions.md R232). -/
def State.boundsOk (s : State) : Bool :=
  if s.reqOp = opWrite ∨ s.reqOp = opRead then inBounds s.par.deviceSize s.reqAddr.toNat s.reqLen.toNat
  else if s.reqOp = opReadByte then decide (s.reqAddr.toNat < s.par.deviceSize)
  else true

/-! ## The splitter (41_page_write.md R140 to R144) -/

/-- `page_remaining = PAGE_SIZE - (address mod PAGE_SIZE)` (41_page_write.md R141). -/
def pageRemaining (addr : Nat) : Nat := Config.pageSize - addr % Config.pageSize

/-- The length of the next chunk (41_page_write.md R142, R143). -/
def chunkLength (addr rem : Nat) : Nat := if pageRemaining addr < rem then pageRemaining addr else rem

/-! ## Frames the block sends -/

/-- 41_page_write.md R149, 40_status_accessor.md R126. -/
def wrenBytes : List (BitVec 8) := [0x06#8]

/-- 40_status_accessor.md R126. -/
def wrsrBytes (v : BitVec 8) : List (BitVec 8) := [0x01#8, v]

/-- 40_status_accessor.md R121. -/
def rdsrBytes : List (BitVec 8) := [0x05#8]

/-- 42_read_engine.md R171. -/
def readBytes (a : BitVec 16) : List (BitVec 8) := [0x03#8, hi8 a, lo8 a]

/-- 41_page_write.md R148. -/
def writeBytes (a : BitVec 16) (data : List (BitVec 8)) : List (BitVec 8) := [0x02#8, hi8 a, lo8 a] ++ data

/-! ## Buffers -/

/-- Bytes `i .. i+n-1` of a byte string, if it has them (`MemRead`, 00_scope.md R17). -/
def sliceBytes (buf : List (BitVec 8)) (i n : Nat) : Option (List (BitVec 8)) :=
  if i + n ≤ buf.length then some ((buf.drop i).take n) else none

/-- The buffer with its first bytes replaced. -/
def overwritePrefix (buf xs : List (BitVec 8)) : List (BitVec 8) := xs ++ buf.drop xs.length

/-- `MemWrite(DST, 0, n, xs)` with `n = len(xs)`, if the buffer has the room (00_scope.md R17). -/
def storeBytes (buf xs : List (BitVec 8)) : Option (List (BitVec 8)) :=
  if xs.length ≤ buf.length then some (overwritePrefix buf xs) else none

/-- Putting a frame into STAGE[0..) (10_state.md R36). -/
def State.stageBytes (bytes : List (BitVec 8)) (s : State) : State :=
  { s with stage := overwritePrefix s.stage bytes, stageLen := bytes.length }

end Sys2Proof.Machine
end

