-- ==== Sys2Proof/Machine/Ops.lean ====
section
/-! DEFINITION. The named operations over the state: the transport events (00_scope.md R16), ending a request
(00_scope.md R18, 60_exceptions.md R241), accepting one (R243) and the platform's reset (70_reset_and_hazards.md R260, R261). -/

namespace Sys2Proof.Machine

/-- The outcome of a step of this machine. -/
abbrev Out := Host.Outcome State Fault Refusal

/-! ## Buses -/

/-- One bus changed. -/
def State.onBus (b : BitVec 8) (f : BusUnit → BusUnit) (s : State) : State :=
  { s with buses := s.buses.modify b.toNat f }

/-- One bus's device changed. -/
def State.onDevice (b : BitVec 8) (f : Device → Device) (s : State) : State :=
  s.onBus b fun u => { u with dev := f u.dev }

/-- One bus's chip-select line driven (10_state.md R38). -/
def State.setCs (b : BitVec 8) (v : Bool) (s : State) : State := s.onBus b fun u => { u with cs := v }

/-- The device on a bus, if the bus exists. -/
def State.device (s : State) (b : BitVec 8) : Option Device := (s.buses[b.toNat]?).map (·.dev)

/-- An event goes on the trace (00_scope.md R20). -/
def State.record (e : Event) (s : State) : State := { s with trace := s.trace ++ [e] }

/-- The next label. -/
def State.goto (p : Phase) (s : State) : State := { s with phase := p }

/-- XFER_OK written (10_state.md R35). -/
def State.setXferOk (ok : Bool) (s : State) : State := { s with xferOk := ok }

/-- RX_BYTE written (10_state.md R35). -/
def State.setRxByte (v : BitVec 8) (s : State) : State := { s with rxByte := v }

/-- DST written (10_state.md R46). -/
def State.setDst (dst : List (BitVec 8)) (s : State) : State := { s with dst := dst }

/-- The splitter's initial values (41_page_write.md R147). -/
def State.startSplitter (s : State) : State := { s with curAddr := s.reqAddr, curOff := 0, remLen := s.reqLen }

/-- The next chunk planned (41_page_write.md R141, R142). -/
def State.planChunk (s : State) : State :=
  { s with pageRem := pageRemaining s.curAddr.toNat, chunkLen := chunkLength s.curAddr.toNat s.remLen.toNat }

/-- The advance past a split chunk (41_page_write.md R144). -/
def State.advanceChunk (s : State) : State :=
  { s with curAddr := s.curAddr + BitVec.ofNat 16 s.chunkLen, curOff := s.curOff + BitVec.ofNat 16 s.chunkLen,
           remLen := s.remLen - BitVec.ofNat 16 s.chunkLen }

/-! ## The transport oracle (00_scope.md R16, 60_exceptions.md R250; log entry 6) -/

/-- The answer the next transmit exchange gets. -/
def State.nextTx (s : State) : Bool :=
  match s.txAnswers with
  | ok :: _ => ok
  | [] => Config.txAnswer s.draws

/-- The answer of a transmit exchange is used up. -/
def State.dropTx (s : State) : State :=
  { s with txAnswers := s.txAnswers.tail, draws := if s.txAnswers.isEmpty then s.draws + 1 else s.draws }

/-- How many of `n` bytes the next receive exchange delivers: never more than `n` (60_exceptions.md R250). -/
def State.nextRx (n : Nat) (s : State) : Nat :=
  match s.rxAnswers with
  | c :: _ => min c n
  | [] => min (Config.rxAnswer s.draws) n

/-- The answer of a receive exchange is used up. -/
def State.dropRx (s : State) : State :=
  { s with rxAnswers := s.rxAnswers.tail, draws := if s.rxAnswers.isEmpty then s.draws + 1 else s.draws }

/-- `n` free values are used up. -/
def State.drew (n : Nat) (s : State) : State := { s with draws := s.draws + n }

/-! ## What an event does at the device on its bus (43_device_commands.md R192) -/

/-- The chip-select edge that opens a frame. -/
def State.deviceSelect (b : BitVec 8) (s : State) : State := s.onDevice b Device.onSelect

/-- The chip-select edge that ends a frame. -/
def State.deviceDeselect (b : BitVec 8) (s : State) : State :=
  (s.onDevice b (Device.onDeselect s.par s.draws)).drew deselectDraws

/-- A transmit exchange, answered by the oracle. -/
def State.deviceTx (b : BitVec 8) (xs : List (BitVec 8)) (s : State) : State :=
  (s.onDevice b (Device.onTx xs s.nextTx)).dropTx

/-- The bytes a receive exchange of `n` bytes delivers: the device's output when it succeeds (43_device_commands.md R190), free
bytes when it fails or no device is there (60_exceptions.md R250; log entries 23 and 24). -/
def State.rxBytes (b : BitVec 8) (n : Nat) (s : State) : List (BitVec 8) :=
  if s.nextRx n = n then
    match s.device b with
    | some d => d.output s.par (s.draws + 1) n
    | none => anyBytes (s.draws + 1) n
  else anyBytes (s.draws + 1) (s.nextRx n)

/-- A receive exchange of `n` bytes; a failed one changes no device state (43_device_commands.md R203). -/
def State.deviceRx (b : BitVec 8) (n : Nat) (s : State) : State :=
  ((s.onDevice b fun d => if s.nextRx n = n then d.onRx n else d).drew (n + 1)).dropRx

/-- `ms` milliseconds pass at every device (43_device_commands.md R205; log entry 15). -/
def State.passTime (ms : Nat) (s : State) : State :=
  { s with buses := s.buses.map fun u => { u with dev := u.dev.passTime ms } }

/-! ## The block's events on the bus of its request (00_scope.md R16) -/

/-- `Select(b)` (10_state.md R38). -/
def State.select (s : State) : State :=
  ((s.setCs s.reqBus true).deviceSelect s.reqBus).record (.select s.reqBus)

/-- `Deselect(b)` (10_state.md R38). -/
def State.deselect (s : State) : State :=
  ((s.setCs s.reqBus false).deviceDeselect s.reqBus).record (.deselect s.reqBus)

/-- What is staged for transmission (10_state.md R36). -/
def State.staged (s : State) : List (BitVec 8) := s.stage.take s.stageLen

/-- `Tx(b, STAGE[0..STAGE_LEN))`; its answer is `s.nextTx`. -/
def State.transmit (s : State) : State :=
  (s.deviceTx s.reqBus s.staged).record (.tx s.reqBus s.staged s.nextTx)

/-- `Rx(b, n)`; it delivers `s.rxBytes s.reqBus n` and succeeds exactly when those are `n` bytes. -/
def State.receive (n : Nat) (s : State) : State :=
  (s.deviceRx s.reqBus n).record (.rx s.reqBus n (s.rxBytes s.reqBus n))

/-- `Delay(ms)` (60_exceptions.md R252). -/
def State.delay (ms : Nat) (s : State) : State := (s.passTime ms).record (.delay ms)

/-! ## Ending and accepting a request -/

/-- `finish(status, value)` (00_scope.md R18, 60_exceptions.md R241): the one way a request ends, failures included. -/
def State.finish (st : Status) (value : BitVec 8) (s : State) : State :=
  { s with resultStatus := st.code, resultValue := value, phase := .idle, posted := s.posted + 1 }

/-- `raise E` means `finish(E, 0x00)` (00_scope.md R18). -/
def State.raise (st : Status) (s : State) : State := s.finish st 0

/-- Accepting a request: its descriptor's fields are latched and DECODE comes next (60_exceptions.md R243; log entry 11). -/
def State.accept (d : Descriptor) (s : State) : State :=
  { s with reqOp := d.op, reqRsv0 := d.rsv0, reqValue := d.value, reqAddr := d.addr, reqLen := d.len,
           reqBus := d.bus, reqRsv1 := d.rsv1, trace := [], phase := .decode }

/-! ## The platform's reset -/

/-- The engine registers after a reset in a run: free values (70_reset_and_hazards.md R260, 10_state.md R48; log entry 4). -/
def State.scrambleEngine (s : State) : State :=
  let k := s.draws
  { s with reqOp := (Config.freeHalf k).setWidth 3, reqBus := Config.freeByte k, reqAddr := Config.freeHalf (k + 1),
           reqLen := Config.freeHalf (k + 2), reqValue := Config.freeByte (k + 1), reqRsv0 := (Config.freeHalf (k + 3)).setWidth 5,
           reqRsv1 := Config.freeByte (k + 2), curAddr := Config.freeHalf (k + 4), curOff := Config.freeHalf (k + 5),
           remLen := Config.freeHalf (k + 6), pageRem := Config.freeNat k % Config.pageSize + 1,
           chunkLen := Config.freeNat (k + 1) % (Config.pageSize + 1), xferOk := Config.freeBit k,
           rxByte := Config.freeByte (k + 3), stage := anyBytes (k + 4) Config.stageSize,
           stageLen := Config.freeNat (k + 2) % (Config.stageSize + 1),
           resultStatus := Config.freeByte (k + 23), resultValue := Config.freeByte (k + 24), draws := k + 25 }

/-- The chip-select drop of a reset: where CS was 1, the device's frame ends as a Deselect with TAINT = 1
(70_reset_and_hazards.md R261). -/
def dropChipSelect (par : Config.Params) (k : Nat) (u : BusUnit) : BusUnit :=
  if u.cs then { cs := false, dev := Device.onDeselect par k { u.dev with taint := true } } else u

/-- Every bus's chip-select dropped, each with free values of its own. -/
def dropChipSelects (par : Config.Params) : Nat → List BusUnit → List BusUnit
  | _, [] => []
  | k, u :: rest => dropChipSelect par k u :: dropChipSelects par (k + deselectDraws) rest

/-- DST of an abandoned READ: the bytes the request could have written are free (70_reset_and_hazards.md R261; log entry 19). -/
def State.abandonedDst (s : State) : List (BitVec 8) :=
  if s.phase ≠ .idle ∧ s.reqOp = opRead ∧ s.descriptorOk then
    overwritePrefix s.dst (anyBytes (s.draws + deselectDraws * s.buses.length) (min s.reqLen.toNat s.dst.length))
  else s.dst

/-- The platform's reset, whatever PHASE holds (70_reset_and_hazards.md R260, R261): no result is posted; the devices are not
reset (R262). -/
def State.platformReset (s : State) : State :=
  State.scrambleEngine
    { s with buses := dropChipSelects s.par s.draws s.buses, dst := s.abandonedDst, phase := .idle, resetIn := none,
             draws := s.draws + deselectDraws * s.buses.length + s.reqLen.toNat }

end Sys2Proof.Machine
end

