-- ==== Sys2Proof/Machine/DeviceFrames.lean ====
section
/-! DEFINITION. The six device frames (43_device_commands.md), each driven as one transaction directly at the device on bus
BENCH_BUS (log entry 13): the chip-select edge, one transmit exchange of the frame, the receive exchanges BENCH_RX asks for, and
the Deselect at which the command takes effect (R192). -/

namespace Sys2Proof.Machine

/-- The receive exchanges of a transaction, each one's bytes kept in order. -/
def benchReceive (b : BitVec 8) : List Nat → State → State
  | [], s => s
  | n :: rest, s => benchReceive b rest { s.deviceRx b n with benchGot := s.benchGot ++ [s.rxBytes b n] }

/-- The transmit exchange of a transaction; a transaction with no byte has none (43_device_commands.md R202). -/
def benchTransmit (b : BitVec 8) (bytes : List (BitVec 8)) (s : State) : State :=
  if bytes = [] then s else s.deviceTx b bytes

/-- One transaction at the device on BENCH_BUS. -/
def benchTransaction (bytes : List (BitVec 8)) (s : State) : State :=
  let b := s.benchBus
  (benchReceive b s.benchRx (benchTransmit b bytes ({ s with benchGot := [] }.deviceSelect b))).deviceDeselect b

/-- WREN (43_device_commands.md R194). -/
def execWren (s : State) : Out := .next (benchTransaction [0x06#8] s)

/-- RDSR (43_device_commands.md R195). -/
def execRdsr (s : State) : Out := .next (benchTransaction [0x05#8] s)

/-- WRDI (43_device_commands.md R196). -/
def execWrdi (s : State) : Out := .next (benchTransaction [0x04#8] s)

/-- WRSR (43_device_commands.md R197). -/
def execWrsr (value : BitVec 8) (s : State) : Out := .next (benchTransaction [0x01#8, value] s)

/-- READ (43_device_commands.md R198). -/
def execReadFrame (addr : BitVec 16) (s : State) : Out := .next (benchTransaction [0x03#8, hi8 addr, lo8 addr] s)

/-- WRITE (43_device_commands.md R199). -/
def execWriteFrame (addr : BitVec 16) (data : List (BitVec 8)) (s : State) : Out :=
  .next (benchTransaction ([0x02#8, hi8 addr, lo8 addr] ++ data) s)

end Sys2Proof.Machine
end

