-- ==== Sys2Proof/Machine/Lines.lean ====
section
/-! DEFINITION. The labelled lines of the pseudocode of 40_status_accessor.md, 41_page_write.md and 42_read_engine.md: what one
step of the sequencer does at each label of PHASE (10_state.md R32), with the label that comes next. -/

namespace Sys2Proof.Machine

/-! ## DECODE (60_exceptions.md R236, R243) -/

/-- The first label of an operation; a WRITE's splitter registers are set on the way (60_exceptions.md R243). -/
def State.startOperation (s : State) : State :=
  if s.reqOp = opWrite then s.startSplitter.goto .wPlan
  else if s.reqOp = opRead ∨ s.reqOp = opReadByte then s.goto .rSel
  else if s.reqOp = opReadStatus then s.goto .sSel
  else s.goto .wsEnSel

/-- The caller-buffer check (60_exceptions.md R235): the fault it raises, if any. -/
def State.bufferFault (s : State) : Option Fault :=
  if s.reqOp = opWrite ∧ s.src.length < s.reqLen.toNat then some .sourceOverrun
  else if s.reqOp = opRead ∧ s.dst.length < s.reqLen.toNat then some .destOverrun
  else none

/-- DECODE: the checks in the order of 60_exceptions.md R236. -/
def lineDecode (s : State) : Out :=
  if s.descriptorOk = false then .next (s.raise .invalidRequest)
  else if s.busOk = false then .next (s.raise .invalidArgument)
  else if s.boundsOk = false then .next (s.raise .invalidArgument)
  else match s.bufferFault with
    | some f => .fault f
    | none => .next s.startOperation

/-! ## WRITE (41_page_write.md R147) -/

/-- W_PLAN. -/
def lineWPlan (s : State) : State := s.planChunk.goto .wEnSel

/-- W_EN_SEL. -/
def lineWEnSel (s : State) : State := s.select.goto .wEnTx

/-- W_EN_TX: the answer is not consulted. -/
def lineWEnTx (s : State) : State := (s.stageBytes wrenBytes).transmit.goto .wEnDesel

/-- W_EN_DESEL. -/
def lineWEnDesel (s : State) : State := s.deselect.goto .wSel

/-- W_SEL. -/
def lineWSel (s : State) : State := s.select.goto .wTx

/-- W_TX: the chunk's bytes are read from SRC now; a read outside it is a model fault (00_scope.md R17). -/
def lineWTx (s : State) : Out :=
  match sliceBytes s.src s.curOff.toNat s.chunkLen with
  | none => .fault .sourceOverrun
  | some data => .next (((s.stageBytes (writeBytes s.curAddr data)).transmit.setXferOk s.nextTx).goto .wDesel)

/-- W_DESEL (41_page_write.md R150). -/
def lineWDesel (s : State) : State :=
  if s.xferOk then s.deselect.goto .wDelay else s.deselect.raise .transportFail

/-- W_DELAY and the advance (41_page_write.md R144, R151). -/
def lineWDelay (s : State) : State :=
  if s.chunkLen = s.remLen.toNat then (s.delay Config.writeCycleMs).finish .ok 0
  else (s.delay Config.writeCycleMs).advanceChunk.goto .wPlan

/-! ## READ and READ_BYTE (42_read_engine.md R172, R176) -/

/-- A receive exchange of one byte into RX_BYTE, 0x00 when none came (42_read_engine.md R172, 40_status_accessor.md R121). -/
def State.receiveByte (s : State) : State :=
  ((s.receive 1).setXferOk (decide (s.nextRx 1 = 1))).setRxByte
    (if s.nextRx 1 = 1 then (s.rxBytes s.reqBus 1).headD 0 else 0)

/-- R_SEL. -/
def lineRSel (s : State) : State := s.select.goto .rCmd

/-- R_CMD: the answer is not consulted (42_read_engine.md R171). -/
def lineRCmd (s : State) : State := (s.stageBytes (readBytes s.reqAddr)).transmit.goto .rData

/-- R_DATA of READ_BYTE: one byte goes to RX_BYTE (42_read_engine.md R172). -/
def lineRDataByte (s : State) : State := s.receiveByte.goto .rDesel

/-- R_DATA of READ: LEN bytes go to DST, or DST[0..LEN) becomes free (42_read_engine.md R176, R179); a write outside DST is a
model fault (00_scope.md R17). -/
def lineRDataRun (s : State) : Out :=
  let n := s.reqLen.toNat
  let bytes := if s.nextRx n = n then s.rxBytes s.reqBus n else anyBytes (s.receive n).draws n
  match storeBytes s.dst bytes with
  | none => .fault .destOverrun
  | some dst =>
    .next (((((s.receive n).drew (if s.nextRx n = n then 0 else n)).setDst dst).setXferOk (decide (s.nextRx n = n))).goto .rDesel)

/-- R_DATA. -/
def lineRData (s : State) : Out :=
  if s.reqOp = opReadByte then .next (lineRDataByte s) else lineRDataRun s

/-- The result of a read that succeeded: RX_BYTE for READ_BYTE, 0x00 for READ (42_read_engine.md R172, R176). -/
def State.readValue (s : State) : BitVec 8 := if s.reqOp = opReadByte then s.rxByte else 0

/-- The status of a read that failed (42_read_engine.md R172, R176). -/
def State.readFailure (s : State) : Status := if s.reqOp = opReadByte then .noData else .transportFail

/-- R_DESEL (42_read_engine.md R178). -/
def lineRDesel (s : State) : State :=
  if s.xferOk = false then s.deselect.raise s.readFailure
  else if s.par.readSettle then s.deselect.goto .rDelay
  else s.deselect.finish .ok s.readValue

/-- R_DELAY. -/
def lineRDelay (s : State) : State := (s.delay Config.writeCycleMs).finish .ok s.readValue

/-! ## READ_STATUS (40_status_accessor.md R121) -/

/-- S_SEL. -/
def lineSSel (s : State) : State := s.select.goto .sCmd

/-- S_CMD: the answer is not consulted. -/
def lineSCmd (s : State) : State := (s.stageBytes rdsrBytes).transmit.goto .sData

/-- S_DATA. -/
def lineSData (s : State) : State := s.receiveByte.goto .sDesel

/-- S_DESEL. -/
def lineSDesel (s : State) : State :=
  if s.xferOk then s.deselect.finish .ok s.rxByte else s.deselect.raise .noData

/-! ## WRITE_STATUS (40_status_accessor.md R126) -/

/-- WS_EN_SEL. -/
def lineWsEnSel (s : State) : State := s.select.goto .wsEnTx

/-- WS_EN_TX: the answer is not consulted. -/
def lineWsEnTx (s : State) : State := (s.stageBytes wrenBytes).transmit.goto .wsEnDesel

/-- WS_EN_DESEL. -/
def lineWsEnDesel (s : State) : State := s.deselect.goto .wsSel

/-- WS_SEL. -/
def lineWsSel (s : State) : State := s.select.goto .wsTx

/-- WS_TX. -/
def lineWsTx (s : State) : State :=
  ((s.stageBytes (wrsrBytes s.reqValue)).transmit.setXferOk s.nextTx).goto .wsDesel

/-- WS_DESEL. -/
def lineWsDesel (s : State) : State :=
  if s.xferOk then s.deselect.goto .wsDelay else s.deselect.raise .transportFail

/-- WS_DELAY. -/
def lineWsDelay (s : State) : State := (s.delay Config.statusWriteMs).finish .ok 0

end Sys2Proof.Machine
end

