-- ==== Sys2Proof/Machine/Sequencer.lean ====
section
/-! DEFINITION. The sequencer: one labelled line, with the platform's reset between lines, and the run of a whole request. -/

namespace Sys2Proof.Machine

/-- The line of the label PHASE holds (10_state.md R32); IDLE has none. -/
def line (s : State) : Out :=
  match s.phase with
  | .idle => .next s
  | .decode => lineDecode s
  | .wPlan => .next (lineWPlan s)
  | .wEnSel => .next (lineWEnSel s)
  | .wEnTx => .next (lineWEnTx s)
  | .wEnDesel => .next (lineWEnDesel s)
  | .wSel => .next (lineWSel s)
  | .wTx => lineWTx s
  | .wDesel => .next (lineWDesel s)
  | .wDelay => .next (lineWDelay s)
  | .rSel => .next (lineRSel s)
  | .rCmd => .next (lineRCmd s)
  | .rData => lineRData s
  | .rDesel => .next (lineRDesel s)
  | .rDelay => .next (lineRDelay s)
  | .sSel => .next (lineSSel s)
  | .sCmd => .next (lineSCmd s)
  | .sData => .next (lineSData s)
  | .sDesel => .next (lineSDesel s)
  | .wsEnSel => .next (lineWsEnSel s)
  | .wsEnTx => .next (lineWsEnTx s)
  | .wsEnDesel => .next (lineWsEnDesel s)
  | .wsSel => .next (lineWsSel s)
  | .wsTx => .next (lineWsTx s)
  | .wsDesel => .next (lineWsDesel s)
  | .wsDelay => .next (lineWsDelay s)

/-- One line, or the platform's reset where it lands before that line (70_reset_and_hazards.md R261; log entry 20). -/
def tick (s : State) : Out :=
  match s.resetIn with
  | none => line s
  | some 0 => .next s.platformReset
  | some (k + 1) => line { s with resetIn := some k }

/-- Lines until PHASE is IDLE, at most `fuel` of them. -/
def runLines : Nat → State → Out
  | 0, s => .next s
  | fuel + 1, s =>
    if s.phase = .idle then .next s
    else match tick s with
      | .next t => runLines fuel t
      | .fault f => .fault f
      | .refused r => .refused r

/-- As many lines as the latched request can take: a WRITE has at most `1 + ceil(LEN / PAGE_SIZE)` chunks of eight lines
(41_page_write.md R145), every other operation fewer than nine lines. -/
def State.lineBudget (s : State) : Nat := 8 * (s.reqLen.toNat / Config.pageSize + 3)

/-- A request from its acceptance to its end (60_exceptions.md R243, R244, R249). -/
def runRequest (d : Descriptor) (s : State) : Out :=
  runLines (s.accept d).lineBudget (s.accept d)

end Sys2Proof.Machine
end

