-- ==== Sys2Proof/Machine/PageWrite.lean ====
section
/-! DEFINITION. The page-write engine's operation (41_page_write.md). A request's meaning is used where PHASE is IDLE
(60_exceptions.md R243, R248); SRC and DST are the caller's buffers in State. -/

namespace Sys2Proof.Machine

/-- WRITE (41_page_write.md R147). -/
def execWrite (bus : BitVec 8) (addr len : BitVec 16) (value : BitVec 8) (s : State) : Out :=
  runRequest (requestFields opWrite bus addr len value) s

end Sys2Proof.Machine
end

