-- ==== Sys2Proof/Machine/ReadEngine.lean ====
section
/-! DEFINITION. The read-command framer's operations (42_read_engine.md). -/

namespace Sys2Proof.Machine

/-- READ (42_read_engine.md R176). -/
def execRead (bus : BitVec 8) (addr len : BitVec 16) (value : BitVec 8) (s : State) : Out :=
  runRequest (requestFields opRead bus addr len value) s

/-- READ_BYTE (42_read_engine.md R172). -/
def execReadByte (bus : BitVec 8) (addr len : BitVec 16) (value : BitVec 8) (s : State) : Out :=
  runRequest (requestFields opReadByte bus addr len value) s

end Sys2Proof.Machine
end

