-- ==== Sys2Proof/Machine/StatusAccessor.lean ====
section
/-! DEFINITION. The status register accessor's operations (40_status_accessor.md). -/

namespace Sys2Proof.Machine

/-- READ_STATUS (40_status_accessor.md R121). -/
def execReadStatus (bus : BitVec 8) (addr len : BitVec 16) (value : BitVec 8) (s : State) : Out :=
  runRequest (requestFields opReadStatus bus addr len value) s

/-- WRITE_STATUS (40_status_accessor.md R126). -/
def execWriteStatus (bus : BitVec 8) (addr len : BitVec 16) (value : BitVec 8) (s : State) : Out :=
  runRequest (requestFields opWriteStatus bus addr len value) s

end Sys2Proof.Machine
end

