-- ==== Sys2Proof/Machine/Dispatch.lean ====
section
/-! DEFINITION. One arm per instruction. -/

namespace Sys2Proof.Machine

def exec (i : Instr) (s : State) : Host.Outcome State Fault Refusal :=
  match i with
  | .write bus addr len value => Sys2Proof.Machine.execWrite bus addr len value s
  | .read bus addr len value => Sys2Proof.Machine.execRead bus addr len value s
  | .readByte bus addr len value => Sys2Proof.Machine.execReadByte bus addr len value s
  | .readStatus bus addr len value => Sys2Proof.Machine.execReadStatus bus addr len value s
  | .writeStatus bus addr len value => Sys2Proof.Machine.execWriteStatus bus addr len value s
  | .wrsr value => Sys2Proof.Machine.execWrsr value s
  | .writeFrame addr data => Sys2Proof.Machine.execWriteFrame addr data s
  | .readFrame addr => Sys2Proof.Machine.execReadFrame addr s
  | .wrdi => Sys2Proof.Machine.execWrdi s
  | .rdsr => Sys2Proof.Machine.execRdsr s
  | .wren => Sys2Proof.Machine.execWren s

end Sys2Proof.Machine
end

