-- ==== Sys2Proof/Machine/Fetch.lean ====
section
/-! DEFINITION. What the machine does next: the line of a request in progress, or the host's next action (60_exceptions.md R243,
R244, R248). The operations come from the host: there is no instruction memory (20_memory.md R76). -/

namespace Sys2Proof.Machine

/-- What comes next. -/
inductive Fetched where
  /-- The host's next action is an instruction, run on this state. -/
  | run (i : Instr) (s : State)
  /-- No instruction: the step's outcome as it is. -/
  | direct (o : Out)

/-- A request's buffers and reset are attached; the action leaves the list. -/
def State.attach (src dst : List (BitVec 8)) (cut : Option Nat) (rest : List HostAction) (s : State) : State :=
  { s with src := src, dst := dst, resetIn := cut, host := rest }

/-- A frame's bus and receive exchanges are attached; the action leaves the list. -/
def State.attachFrame (bus : BitVec 8) (rxs : List Nat) (rest : List HostAction) (s : State) : State :=
  { s with benchBus := bus, benchRx := rxs, host := rest }

/-- The host's next action, where PHASE is IDLE. A descriptor that is no operation ends in DECODE with INVALID_REQUEST
(60_exceptions.md R234); a frame that is no command is a transaction the device ignores (43_device_commands.md R202); with no
action the block waits. -/
def fetchHost (s : State) : Fetched :=
  match s.host with
  | [] => .direct (.next s)
  | .request desc src dst cut :: rest =>
    match decode (.descriptor desc) with
    | .instr i => .run i (s.attach src dst cut rest)
    | .rejected _ => .direct (runRequest (splitDescriptor desc) (s.attach src dst cut rest))
  | .requestByLine desc src dst cut :: rest =>
    .direct (.next ((s.attach src dst cut rest).accept (splitDescriptor desc)))
  | .wait ms :: rest => .direct (.next ({ s with host := rest }.passTime ms))
  | .reset :: rest => .direct (.next { s with host := rest }.platformReset)
  | .frame bus bytes rxs :: rest =>
    match decode (.frame bytes) with
    | .instr i => .run i (s.attachFrame bus rxs rest)
    | .rejected _ => .direct (.next (benchTransaction bytes (s.attachFrame bus rxs rest)))

/-- A request in progress goes on by one line, and the host's actions are held (60_exceptions.md R248); in IDLE the host's next
action is taken. -/
def fetch (s : State) : Fetched := if s.phase = .idle then fetchHost s else .direct (tick s)

/-- The action that stands for an opcode-table row's bits: a request whose caller supplies buffers of LEN bytes, or a frame on
bus 0 with the receive phase of the block's own use (30_encoding.md R92). -/
def tableAction (nbits w : Nat) : HostAction :=
  match tableEncoded nbits w with
  | .descriptor d =>
    let n := (splitDescriptor d).len.toNat
    .request d (List.replicate n 0) (List.replicate n 0) none
  | .frame bytes =>
    .frame 0 bytes (if bytes.head? = some codeRead ∨ bytes.head? = some codeRdsr then [1] else [])

/-- How many transmit answers one instruction can use: two a chunk (41_page_write.md R145, R147). -/
def tableAnswers (nbits w : Nat) : Nat :=
  match tableEncoded nbits w with
  | .descriptor d => 2 * ((splitDescriptor d).len.toNat / Config.pageSize + 2)
  | .frame _ => 1

/-- The row's action comes next, in IDLE; behind the answers the transport has scripted stand as many successes as the
instruction can use (log entry 7). -/
def State.loadTableWord (s : State) (nbits w : Nat) : State :=
  { s with phase := .idle, host := tableAction nbits w :: s.host,
           txAnswers := s.txAnswers ++ List.replicate (tableAnswers nbits w) true,
           rxAnswers := s.rxAnswers ++ [65536] }

end Sys2Proof.Machine
end

