-- ==== Sys2Proof/Machine/Step.lean ====
section
/-! DEFINITION. The step, and placing an instruction where the next step takes it. -/

namespace Sys2Proof.Machine

/-- One step: the host's next action where PHASE is IDLE, a whole request at once; the line PHASE holds otherwise
(10_state.md R32; log entry 1). -/
def step (s : State) : Host.Outcome State Fault Refusal :=
  match fetch s with
  | .run i t => exec i t
  | .direct o => o

/-- The state with that instruction as the host's next action (log entry 7). -/
def State.withFetchWord (s : State) (nbits w : Nat) : State := s.loadTableWord nbits w

end Sys2Proof.Machine
end

