-- ==== Sys2Proof/Safety.lean ====
section
/-! DEFINITION. The terms claims are stated in: the invariant of the machine, what is observed of it, and the closed form of a
WRITE. -/

namespace Sys2Proof.Machine

/-! ## Reading the state -/

/-- The byte of the device on bus `b` at address `a`. -/
def State.memByte (s : State) (b : BitVec 8) (a : Nat) : BitVec 8 :=
  match s.device b with
  | some d => Memory.read d.mem a
  | none => Memory.blank

/-- The chip-select line of bus `b` (10_state.md R38). -/
def State.chipSelect (s : State) (b : BitVec 8) : Option Bool := (s.buses[b.toNat]?).map (·.cs)

/-- The data a device keeps from one frame to the next, after `ms` milliseconds in which nothing else changed it. -/
def Device.KeptFor (ms : Nat) (d e : Device) : Prop :=
  e.mem = d.mem ∧ e.wpen = d.wpen ∧ e.bp1 = d.bp1 ∧ e.bp0 = d.bp0 ∧ e.wel = d.wel ∧ e.wipMs = d.wipMs - ms

/-- Every device keeps its data, but for `ms` milliseconds of its write cycle. -/
def State.DevicesKeptFor (ms : Nat) (s t : State) : Prop :=
  ∀ b d, s.device b = some d → ∃ e, t.device b = some e ∧ d.KeptFor ms e

/-- A device between two frames: what `onDeselect` leaves (43_device_commands.md R192). -/
def Device.closed (taint : Bool) (d : Device) : Device :=
  { d with frame := [], taint := taint, selected := false, readCount := 0 }

/-- What a frame one of whose exchanges failed may make of device `d` at its Deselect, in the data a device keeps
(43_device_commands.md R203). -/
def Device.MayFollowFailed (par : Config.Params) (d e : Device) : Prop :=
  match decodeFrame d.frame with
  | .instr .wren | .instr .wrdi => ∃ w, { d with wel := w }.KeptFor 0 e
  | .instr (.wrsr _) =>
    ∃ w p b1 b0 ms, (ms = 0 ∨ ms = par.tWcDevice) ∧
      { d with wel := w, wpen := p, bp1 := b1, bp0 := b0, wipMs := ms }.KeptFor 0 e
  | .instr (.writeFrame a _) =>
    ∃ m w ms, (ms = 0 ∨ ms = par.tWcDevice) ∧ { d with mem := m, wel := w, wipMs := ms }.KeptFor 0 e ∧
      ∀ x, (x < devicePageBase par a ∨ devicePageBase par a + 16 ≤ x) → Memory.read m x = Memory.read d.mem x
  | _ => d.KeptFor 0 e

/-- What a list of receive exchanges delivers: for each exchange at most the bytes asked, and as many as a scripted answer says,
capped at the number asked (60_exceptions.md R250; log entry 6). -/
def Delivered (asked answers : List Nat) (got : List (List (BitVec 8))) : Prop :=
  got.length = asked.length ∧ ∀ (k n : Nat), asked[k]? = some n → ∃ xs, got[k]? = some xs ∧ xs.length ≤ n ∧
    ∀ c, answers[k]? = some c → xs.length = min c n

/-- What no request writes: SRC, the parameters, the host's actions and the direct frame's fields. -/
def State.SurroundingsKept (s t : State) : Prop :=
  t.src = s.src ∧ t.par = s.par ∧ t.host = s.host ∧ t.resetIn = s.resetIn ∧
  t.benchBus = s.benchBus ∧ t.benchRx = s.benchRx ∧ t.benchGot = s.benchGot

/-- The splitter registers are as they were (10_state.md R34). -/
def State.SplitterKept (s t : State) : Prop :=
  t.curAddr = s.curAddr ∧ t.curOff = s.curOff ∧ t.remLen = s.remLen ∧ t.pageRem = s.pageRem ∧ t.chunkLen = s.chunkLen

/-- The request of descriptor `d` is latched (60_exceptions.md R243). -/
def State.Latched (d : Descriptor) (t : State) : Prop :=
  t.reqOp = d.op ∧ t.reqBus = d.bus ∧ t.reqAddr = d.addr ∧ t.reqLen = d.len ∧ t.reqValue = d.value ∧
  t.reqRsv0 = d.rsv0 ∧ t.reqRsv1 = d.rsv1

/-- The chip-select lines after a request on `bus`: its own is 0, the others are as they were (60_exceptions.md R241). -/
def State.ChipSelectReleased (bus : BitVec 8) (s t : State) : Prop :=
  t.chipSelect bus = some false ∧ ∀ b, b ≠ bus → t.chipSelect b = s.chipSelect b

/-- A request ended with this result (60_exceptions.md R241). -/
def State.Finished (s t : State) (st : Status) (value : BitVec 8) : Prop :=
  t.phase = .idle ∧ t.posted = s.posted + 1 ∧ t.resultStatus = st.code ∧ t.resultValue = value

/-- Which instructions are host operations (00_scope.md R3). -/
def isRequest : Instr → Bool
  | .write _ _ _ _ | .read _ _ _ _ | .readByte _ _ _ _ | .readStatus _ _ _ _ | .writeStatus _ _ _ _ => true
  | .wrsr _ | .writeFrame _ _ | .readFrame _ | .wrdi | .rdsr | .wren => false

/-- An outcome's state changed by `f`. -/
def mapNext (f : State → State) : Out → Out
  | .next t => .next (f t)
  | .fault r => .fault r
  | .refused r => .refused r

/-- The state with the working registers of the engine blotted out: the splitter, XFER_OK, RX_BYTE and STAGE. -/
def State.blotWork (s : State) : State :=
  { s with curAddr := 0, curOff := 0, remLen := 0, pageRem := 1, chunkLen := 0, xferOk := false, rxByte := 0,
           stage := [], stageLen := 0 }

/-- The state with every engine register blotted out but PHASE (10_state.md R48). -/
def State.blotEngine (s : State) : State :=
  { s.blotWork with reqOp := 0, reqBus := 0, reqAddr := 0, reqLen := 0, reqValue := 0, reqRsv0 := 0, reqRsv1 := 0,
                    resultStatus := 0, resultValue := 0 }

/-- The state with the latched operands blotted out. -/
def State.blotOperands (s : State) : State := { s with reqAddr := 0, reqLen := 0, reqValue := 0 }

/-! ## The closed form of a WRITE (41_page_write.md R146) -/

/-- A chunk. -/
structure Chunk where
  addr : Nat
  off  : Nat
  len  : Nat
  deriving DecidableEq, Repr

/-- `K + 1`, with K the page boundaries the bytes `A .. A+L-1` cross; 1 when L = 0 (41_page_write.md R146, R153). -/
def chunkCount (A L : Nat) : Nat :=
  if L = 0 then 1 else (A + L - 1) / Config.pageSize - A / Config.pageSize + 1

/-- Chunk `j` (41_page_write.md R146). -/
def chunkAt (A L j : Nat) : Chunk :=
  if j = 0 then { addr := A, off := 0, len := min L (Config.pageSize - A % Config.pageSize) }
  else
    let a := (A / Config.pageSize + j) * Config.pageSize
    { addr := a, off := a - A, len := min Config.pageSize (A + L - a) }

/-- The chunks of a WRITE, in order (41_page_write.md R146). -/
def writeChunks (A L : Nat) : List Chunk := (List.range (chunkCount A L)).map (chunkAt A L)

/-- The events of one chunk when its WREN exchange is answered `w` and its WRITE-frame exchange `f`
(41_page_write.md R147, R150, R151). -/
def chunkEvents (b : BitVec 8) (src : List (BitVec 8)) (c : Chunk) (w f : Bool) : List Event :=
  [.select b, .tx b [0x06#8] w, .deselect b, .select b,
   .tx b ([0x02#8, hi8 (BitVec.ofNat 16 c.addr), lo8 (BitVec.ofNat 16 c.addr)] ++ (src.drop c.off).take c.len) f,
   .deselect b] ++ (if f then [.delay 4] else [])

/-- The events of a list of chunks under a script of answers, two a chunk, up to the first failed WRITE frame; and whether
none failed (41_page_write.md R147, R150). -/
def writeEvents (b : BitVec 8) (src : List (BitVec 8)) : List Chunk → List Bool → List Event × Bool
  | c :: cs, w :: f :: script =>
    if f then
      (chunkEvents b src c w true ++ (writeEvents b src cs script).1, (writeEvents b src cs script).2)
    else (chunkEvents b src c w false, false)
  | _, _ => ([], true)

/-- The checks of DECODE pass for a range of `len` bytes at `addr` on `bus` (60_exceptions.md R232, R233). -/
def State.Accepts (s : State) (bus : BitVec 8) (addr len : Nat) : Prop :=
  bus.toNat < s.numBuses ∧ addr < s.par.deviceSize ∧ addr + len ≤ s.par.deviceSize

/-! ## The invariant -/

/-- The labels at which the request's bus is selected (10_state.md R32). -/
def Phase.selecting : Phase → Bool
  | .wEnTx | .wEnDesel | .wTx | .wDesel | .rCmd | .rData | .rDesel | .sCmd | .sData | .sDesel
  | .wsEnTx | .wsEnDesel | .wsTx | .wsDesel => true
  | .idle | .decode | .wPlan | .wEnSel | .wSel | .wDelay | .rSel | .rDelay | .sSel | .wsEnSel | .wsSel | .wsDelay => false

/-- The labels of WRITE. -/
def Phase.ofWrite : Phase → Bool
  | .wPlan | .wEnSel | .wEnTx | .wEnDesel | .wSel | .wTx | .wDesel | .wDelay => true
  | .idle | .decode | .rSel | .rCmd | .rData | .rDesel | .rDelay | .sSel | .sCmd | .sData | .sDesel
  | .wsEnSel | .wsEnTx | .wsEnDesel | .wsSel | .wsTx | .wsDesel | .wsDelay => false

/-- The operations a label belongs to (10_state.md R32). -/
def Phase.runs (p : Phase) (op : BitVec 3) : Prop :=
  match p with
  | .idle | .decode => True
  | .wPlan | .wEnSel | .wEnTx | .wEnDesel | .wSel | .wTx | .wDesel | .wDelay => op = opWrite
  | .rSel | .rCmd | .rData | .rDesel | .rDelay => op = opRead ∨ op = opReadByte
  | .sSel | .sCmd | .sData | .sDesel => op = opReadStatus
  | .wsEnSel | .wsEnTx | .wsEnDesel | .wsSel | .wsTx | .wsDesel | .wsDelay => op = opWriteStatus

/-- A device whose memory is in canonical form inside the array, and which is selected exactly while its line is asserted. -/
structure BusUnit.Sound (par : Config.Params) (u : BusUnit) : Prop where
  memWf      : Memory.wf u.dev.mem
  memWithin  : Memory.within par.deviceSize u.dev.mem
  selected   : u.dev.selected = u.cs
  frameEmpty : u.cs = false → u.dev.frame = []

/-- The frames a request transmits: commands of the right length and of one page, never WRDI (43_device_commands.md R193, R196;
41_page_write.md R152). -/
def FramesSound (trace : List Event) : Prop :=
  ∀ b bytes ok, Event.tx b bytes ok ∈ trace →
    ∃ i, decodeFrame bytes = .instr i ∧ i.wellFormed = true ∧ i ≠ .wrdi

/-- The invariant every step keeps. -/
structure State.Inv (s : State) : Prop where
  /-- 00_scope.md R9. -/
  params    : s.par.Legal
  devices   : ∀ u ∈ s.buses, u.Sound s.par
  /-- A line is asserted exactly while its bus is selected by the request in progress (10_state.md R38). -/
  lines     : ∀ b u, s.buses[b]? = some u → (u.cs = true ↔ s.phase.selecting = true ∧ b = s.reqBus.toNat)
  /-- 10_state.md R34, R36. -/
  registers : s.stage.length = Config.stageSize ∧ s.stageLen ≤ Config.stageSize ∧
              1 ≤ s.pageRem ∧ s.pageRem ≤ Config.pageSize ∧ s.chunkLen ≤ Config.pageSize
  /-- After DECODE the checks have passed (60_exceptions.md R236). -/
  request   : s.phase ≠ .idle → s.phase ≠ .decode →
              s.descriptorOk = true ∧ s.busOk = true ∧ s.boundsOk = true ∧ s.bufferFault = none ∧ s.phase.runs s.reqOp
  /-- The splitter registers of a WRITE in progress (41_page_write.md R140 to R144). -/
  splitter  : s.phase.ofWrite = true →
              s.curAddr.toNat + s.remLen.toNat = s.reqAddr.toNat + s.reqLen.toNat ∧
              s.curOff.toNat + s.remLen.toNat = s.reqLen.toNat
  planned   : s.phase.ofWrite = true → s.phase ≠ .wPlan →
              s.pageRem = pageRemaining s.curAddr.toNat ∧ s.chunkLen = chunkLength s.curAddr.toNat s.remLen.toNat
  frames    : FramesSound s.trace

end Sys2Proof.Machine
end

