-- ==== Sys2Proof/Certificates/Slice0/Obligations.lean ====
section
/-! DEFINITION. The statements for the provers. A hypothesis `s.resetIn = none` says that no platform reset lands inside the
request (70_reset_and_hazards.md R261); answers are the transport's (60_exceptions.md R250). -/

open Sys2Proof Sys2Proof.Machine

/-! ## Encoding -/

/-- 30_encoding.md R91 to R95, R100, R101: decoding an encoded instruction gives it back, with every operand. -/
def Obligations.DecodeOfEncodeIsTheInstruction : Prop :=
  ∀ i : Instr, decode (encode i) = .instr i

/-- 30_encoding.md R91 to R95, R100 to R103: what decodes to an instruction is that instruction's one encoding. -/
def Obligations.EncodeOfDecodeIsTheWord : Prop :=
  ∀ (e : Encoded) (i : Instr), decode e = .instr i → encode i = e

/-- 30_encoding.md R92, R100, R101 and 95_test_vectors.md Part 5: words written out from the layouts. -/
def Obligations.WrittenOutWordsDecode : Prop :=
  decode (.descriptor 0x00000014000A0000#64) = .instr (.write 0 0x000A 20 0) ∧
  decode (.descriptor 0x0000000500000001#64) = .instr (.read 0 0 5 0) ∧
  decode (.descriptor 0x0000000007FF0002#64) = .instr (.readByte 0 0x07FF 0 0) ∧
  decode (.descriptor 0x0001000000000003#64) = .instr (.readStatus 1 0 0 0) ∧
  decode (.descriptor 0x0000FFFFFFFF0C04#64) = .instr (.writeStatus 0 0xFFFF 0xFFFF 0x0C) ∧
  decode (.frame [0x01#8, 0x0C#8]) = .instr (.wrsr 0x0C) ∧
  decode (.frame [0x02#8, 0x07#8, 0xFF#8, 0x5A#8]) = .instr (.writeFrame 0x07FF [0x5A]) ∧
  decode (.frame [0x03#8, 0x07#8, 0xFB#8]) = .instr (.readFrame 0x07FB) ∧
  decode (.frame [0x04#8]) = .instr .wrdi ∧ decode (.frame [0x05#8]) = .instr .rdsr ∧ decode (.frame [0x06#8]) = .instr .wren

/-- 30_encoding.md R104. -/
def Obligations.ResultWordIsValueAboveStatus : Prop :=
  ∀ s : State, (resultWord s).toNat = s.resultValue.toNat * 256 + s.resultStatus.toNat

/-! ## The step -/

/-- 60_exceptions.md R243: the step that takes a request runs the decoded operation with the caller's buffers attached; log
entry 1 (a whole request is one step) is the model's choice. -/
def Obligations.StepRunsTheDecodedRequest : Prop :=
  ∀ (s : State) (desc : BitVec 64) (src dst : List (BitVec 8)) (cut : Option Nat) (rest : List HostAction) (i : Instr),
    s.phase = .idle → s.host = .request desc src dst cut :: rest → decode (.descriptor desc) = .instr i →
    step s = exec i { s with src := src, dst := dst, resetIn := cut, host := rest }

/-- 43_device_commands.md R192: the step that takes a direct frame runs the decoded command; that a frame is driven directly
is the model's choice (log entry 13). -/
def Obligations.StepRunsTheDecodedFrame : Prop :=
  ∀ (s : State) (bus : BitVec 8) (bytes : List (BitVec 8)) (rxs : List Nat) (rest : List HostAction) (i : Instr),
    s.phase = .idle → s.host = .frame bus bytes rxs :: rest → decode (.frame bytes) = .instr i →
    step s = exec i { s with benchBus := bus, benchRx := rxs, host := rest }

/-- 60_exceptions.md R248: while PHASE is not IDLE the host's actions are held, in order. -/
def Obligations.BusyBlockHoldsTheHost : Prop :=
  ∀ s t : State, s.phase ≠ .idle → step s = .next t → t.host = s.host

/-- 60_exceptions.md R243, for REQ_OP, REQ_BUS, REQ_ADDR, REQ_LEN, REQ_VALUE, the buffers and PHASE = DECODE. The rest is the
model's choice: the reserved fields latched in REQ_RSV0 and REQ_RSV1 (log entry 12), a request presented line by line (entry 1),
latching at acceptance where 10_state.md R33 speaks of DECODE (entry 11), the emptied trace (entry 21). -/
def Obligations.AcceptanceLatchesTheDescriptor : Prop :=
  ∀ (s : State) (desc : BitVec 64) (src dst : List (BitVec 8)) (cut : Option Nat) (rest : List HostAction),
    s.phase = .idle → s.host = .requestByLine desc src dst cut :: rest →
    ∃ t, step s = .next t ∧ t.phase = .decode ∧ t.trace = [] ∧ t.buses = s.buses ∧ t.src = src ∧ t.dst = dst ∧
      t.reqOp.toNat = desc.toNat % 8 ∧ t.reqRsv0.toNat = desc.toNat / 2 ^ 3 % 32 ∧
      t.reqValue.toNat = desc.toNat / 2 ^ 8 % 256 ∧ t.reqAddr.toNat = desc.toNat / 2 ^ 16 % 65536 ∧
      t.reqLen.toNat = desc.toNat / 2 ^ 32 % 65536 ∧ t.reqBus.toNat = desc.toNat / 2 ^ 48 % 256 ∧
      t.reqRsv1.toNat = desc.toNat / 2 ^ 56 % 256

/-- The event the label of PHASE performs, with its bus, bytes and count from the registers (10_state.md R32; the bytes of
40_status_accessor.md R121, R126, 41_page_write.md R147, R148 and 42_read_engine.md R171, R172, R176). -/
def labelEvents (s : State) : List Event :=
  match s.phase with
  | .idle | .decode | .wPlan => []
  | .wEnSel | .wSel | .rSel | .sSel | .wsEnSel | .wsSel => [.select s.reqBus]
  | .wEnTx | .wsEnTx => [.tx s.reqBus [0x06#8] s.nextTx]
  | .wTx => [.tx s.reqBus ([0x02#8, hi8 s.curAddr, lo8 s.curAddr] ++ (s.src.drop s.curOff.toNat).take s.chunkLen) s.nextTx]
  | .rCmd => [.tx s.reqBus [0x03#8, hi8 s.reqAddr, lo8 s.reqAddr] s.nextTx]
  | .sCmd => [.tx s.reqBus [0x05#8] s.nextTx]
  | .wsTx => [.tx s.reqBus [0x01#8, s.reqValue] s.nextTx]
  | .rData =>
    let n := if s.reqOp = opReadByte then 1 else s.reqLen.toNat
    [.rx s.reqBus n (s.rxBytes s.reqBus n)]
  | .sData => [.rx s.reqBus 1 (s.rxBytes s.reqBus 1)]
  | .wEnDesel | .wDesel | .rDesel | .sDesel | .wsEnDesel | .wsDesel => [.deselect s.reqBus]
  | .wDelay | .rDelay | .wsDelay => [.delay 4]

/-- 10_state.md R32: in a request in progress the next step performs exactly the one transport event of its label, on the
request's bus, with the frame its registers name; at DECODE and W_PLAN it performs none. -/
def Obligations.EachLabelPerformsItsOneEvent : Prop :=
  ∀ s t : State, s.phase ≠ .idle → s.resetIn = none → step s = .next t → t.trace = s.trace ++ labelEvents s

/-- 41_page_write.md R145, 60_exceptions.md R244: every request that the model does not stop ends, with PHASE = IDLE, whatever
the transport answers and wherever a reset lands. -/
def Obligations.EveryRequestReturnsToIdle : Prop :=
  ∀ (i : Instr) (s t : State), isRequest i = true → exec i s = .next t → t.phase = .idle

/-- 92_eei_decisions.md D1: a request taken line by line reaches the very state that the whole request reaches in one step
(log entry 1). -/
def Obligations.LineByLineReachesTheWholeRequest : Prop :=
  ∀ (s t : State) (desc : BitVec 64) (src dst : List (BitVec 8)) (cut : Option Nat) (rest : List HostAction),
    s.phase = .idle →
    step { s with host := .request desc src dst cut :: rest } = .next t →
    ∃ k, Sys2Proof.core.run k { s with host := .requestByLine desc src dst cut :: rest } = .next t

/-- 00_scope.md section 3, 10_state.md R47: the open parameters and the number of buses are fixed for a run. -/
def Obligations.StepKeepsTheParameters : Prop :=
  ∀ s t : State, step s = .next t → t.par = s.par ∧ t.numBuses = s.numBuses

/-! ## The checks of DECODE -/

/-- 60_exceptions.md R234, 30_encoding.md R103: a descriptor with a reserved OP or a reserved bit set finishes with
INVALID_REQUEST, value 0x00 and no transport event. -/
def Obligations.ReservedDescriptorPostsInvalidRequest : Prop :=
  ∀ (s : State) (desc : BitVec 64) (src dst : List (BitVec 8)) (rest : List HostAction),
    s.phase = .idle → s.host = .request desc src dst none :: rest →
    (desc.toNat % 8 = 5 ∨ desc.toNat % 8 = 6 ∨ desc.toNat % 8 = 7 ∨ desc.toNat / 8 % 32 ≠ 0 ∨ desc.toNat / 2 ^ 56 ≠ 0) →
    ∃ t, step s = .next t ∧ t.phase = .idle ∧ t.posted = s.posted + 1 ∧ t.resultStatus = 4 ∧ t.resultValue = 0 ∧
      t.trace = [] ∧ t.buses = s.buses ∧ t.dst = dst

/-- 60_exceptions.md R233: every request that names a bus that is not there finishes with INVALID_ARGUMENT and performs no
transport event. -/
def Obligations.AbsentBusPostsInvalidArgument : Prop :=
  ∀ (s : State) (bus : BitVec 8) (addr len : BitVec 16) (value : BitVec 8) (i : Instr),
    (i = .write bus addr len value ∨ i = .read bus addr len value ∨ i = .readByte bus addr len value ∨
      i = .readStatus bus addr len value ∨ i = .writeStatus bus addr len value) →
    s.resetIn = none → s.numBuses ≤ bus.toNat →
    ∃ t, exec i s = .next t ∧ s.Finished t .invalidArgument 0 ∧ t.trace = [] ∧ t.buses = s.buses ∧ t.dst = s.dst

/-- 60_exceptions.md R232: on a bus that is there, a WRITE or READ outside the array, or a READ_BYTE of an address outside it,
finishes with INVALID_ARGUMENT and performs no transport event; the sum is of unbounded naturals. -/
def Obligations.OutOfRangePostsInvalidArgument : Prop :=
  ∀ (s : State) (bus : BitVec 8) (addr len : BitVec 16) (value : BitVec 8) (i : Instr),
    s.resetIn = none → bus.toNat < s.numBuses →
    (((i = .write bus addr len value ∨ i = .read bus addr len value) ∧
        ¬ (addr.toNat < s.par.deviceSize ∧ addr.toNat + len.toNat ≤ s.par.deviceSize)) ∨
      (i = .readByte bus addr len value ∧ ¬ addr.toNat < s.par.deviceSize)) →
    ∃ t, exec i s = .next t ∧ s.Finished t .invalidArgument 0 ∧ t.trace = [] ∧ t.buses = s.buses ∧ t.dst = s.dst

/-- 60_exceptions.md R235, R236: a WRITE that passes the checks with SRC shorter than LEN is the model fault SOURCE_OVERRUN; a
READ with DST shorter than LEN is DEST_OVERRUN. -/
def Obligations.ShortBufferIsAModelFault : Prop :=
  ∀ (s : State) (bus : BitVec 8) (addr len : BitVec 16) (value : BitVec 8),
    s.resetIn = none → s.Accepts bus addr.toNat len.toNat →
    (s.src.length < len.toNat → exec (.write bus addr len value) s = .fault .sourceOverrun) ∧
    (s.dst.length < len.toNat → exec (.read bus addr len value) s = .fault .destOverrun)

/-- 30_encoding.md R102: fields an operation does not use change nothing but the registers they are latched in. -/
def Obligations.UnusedFieldsAreIgnored : Prop :=
  ∀ (s : State) (bus : BitVec 8) (addr addr' len len' : BitVec 16) (value value' : BitVec 8), s.resetIn = none →
    mapNext State.blotOperands (exec (.write bus addr len value) s) =
      mapNext State.blotOperands (exec (.write bus addr len value') s) ∧
    mapNext State.blotOperands (exec (.read bus addr len value) s) =
      mapNext State.blotOperands (exec (.read bus addr len value') s) ∧
    mapNext State.blotOperands (exec (.readByte bus addr len value) s) =
      mapNext State.blotOperands (exec (.readByte bus addr len' value') s) ∧
    mapNext State.blotOperands (exec (.readStatus bus addr len value) s) =
      mapNext State.blotOperands (exec (.readStatus bus addr' len' value') s) ∧
    mapNext State.blotOperands (exec (.writeStatus bus addr len value) s) =
      mapNext State.blotOperands (exec (.writeStatus bus addr' len' value) s)

/-- 10_state.md R36, R48, 60_exceptions.md R241, 70_reset_and_hazards.md R260: no engine register's old value shows in a
request: from two states that differ in them alone, the trace, the result, the buffers and the devices come out the same. -/
def Obligations.OldEngineRegistersNeverShow : Prop :=
  ∀ (i : Instr) (s : State), isRequest i = true → s.resetIn = none →
    mapNext State.blotWork (exec i s) = mapNext State.blotWork (exec i s.blotEngine)

/-! ## READ_STATUS (40_status_accessor.md R121) -/

/-- READ_STATUS runs on every bus that is there, in its four events, and posts OK with the byte received, or NO_DATA with 0x00
when none came; the answer of the command exchange decides nothing. -/
def Obligations.ReadStatusRunsItsFourEvents : Prop :=
  ∀ (s : State) (bus : BitVec 8) (addr len : BitVec 16) (value : BitVec 8),
    s.resetIn = none → bus.toNat < s.numBuses →
    ∃ (t : State) (got : List (BitVec 8)), exec (.readStatus bus addr len value) s = .next t ∧
      t.trace = [.select bus, .tx bus [0x05#8] s.nextTx, .rx bus 1 got, .deselect bus] ∧ got.length ≤ 1 ∧
      (∀ v, got = [v] → s.Finished t .ok v) ∧ (got = [] → s.Finished t .noData 0)

/-- READ_STATUS returns the device's status register, in a write cycle too (40_status_accessor.md R121, 43_device_commands.md
R195, R201): `WPEN<<7 | BP1<<3 | BP0<<2 | WEL<<1 | WIP`. -/
def Obligations.ReadStatusReturnsTheRegister : Prop :=
  ∀ (s : State) (bus : BitVec 8) (addr len : BitVec 16) (value : BitVec 8) (d : Device) (c : Nat) (rest : List Nat),
    s.resetIn = none → s.device bus = some d → s.nextTx = true → s.rxAnswers = (c + 1) :: rest →
    ∃ t, exec (.readStatus bus addr len value) s = .next t ∧ t.phase = .idle ∧ t.resultStatus = 0 ∧
      t.resultValue.toNat = d.wpen.toNat * 128 + d.bp1.toNat * 8 + d.bp0.toNat * 4 + d.wel.toNat * 2 +
        (if 0 < d.wipMs then 1 else 0)

/-- What READ_STATUS leaves unchanged, whatever the transport answers (20_memory.md R69): every device's array, status bits and
remaining write cycle, every other bus, the buffers and the splitter. -/
def Obligations.ReadStatusFrame : Prop :=
  ∀ (s t : State) (bus : BitVec 8) (addr len : BitVec 16) (value : BitVec 8),
    s.resetIn = none → bus.toNat < s.numBuses → exec (.readStatus bus addr len value) s = .next t →
    s.DevicesKeptFor 0 t ∧ (∀ b, b ≠ bus → t.device b = s.device b) ∧ s.ChipSelectReleased bus t ∧
    s.SurroundingsKept t ∧ s.SplitterKept t ∧ t.dst = s.dst ∧
    State.Latched (requestFields opReadStatus bus addr len value) t

/-! ## WRITE_STATUS (40_status_accessor.md R126) -/

/-- WRITE_STATUS runs on every bus that is there: a WREN transaction, then the WRSR transaction with the value unmasked; OK after
a Delay of 4 ms when the WRSR exchange succeeded, TRANSPORT_FAIL without a Delay when it failed; the WREN answer decides
nothing. -/
def Obligations.WriteStatusRunsItsEvents : Prop :=
  ∀ (s : State) (bus : BitVec 8) (addr len : BitVec 16) (value : BitVec 8) (w f : Bool) (rest : List Bool),
    s.resetIn = none → bus.toNat < s.numBuses → s.txAnswers = w :: f :: rest →
    ∃ t, exec (.writeStatus bus addr len value) s = .next t ∧
      t.trace = [.select bus, .tx bus [0x06#8] w, .deselect bus, .select bus, .tx bus [0x01#8, value] f, .deselect bus] ++
        (if f then [.delay 4] else []) ∧
      s.Finished t (if f then .ok else .transportFail) 0

/-- WRITE_STATUS on an idle device that is not locked writes WPEN, BP1 and BP0, clears WEL and starts a write cycle of which
4 ms pass (43_device_commands.md R194, R197, R205). -/
def Obligations.WriteStatusWritesTheRegister : Prop :=
  ∀ (s : State) (bus : BitVec 8) (addr len : BitVec 16) (value : BitVec 8) (d : Device) (rest : List Bool),
    s.resetIn = none → s.device bus = some d → d.wipMs = 0 → ¬ (d.wpen = true ∧ s.par.wpN = false) →
    s.txAnswers = true :: true :: rest →
    ∃ t, exec (.writeStatus bus addr len value) s = .next t ∧ s.Finished t .ok 0 ∧
      t.device bus = some { d.closed false with
        wpen := value.getLsbD 7, bp1 := value.getLsbD 3, bp0 := value.getLsbD 2, wel := false,
        wipMs := s.par.tWcDevice - 4 }

/-- 70_reset_and_hazards.md R272: while WPEN = 1 and the WP pin is asserted WRITE_STATUS returns OK and writes no field; only WEL
may change. -/
def Obligations.LockedStatusWriteIsSilent : Prop :=
  ∀ (s : State) (bus : BitVec 8) (addr len : BitVec 16) (value : BitVec 8) (d : Device) (rest : List Bool),
    s.resetIn = none → s.device bus = some d → d.wipMs = 0 → d.wpen = true → s.par.wpN = false →
    s.txAnswers = true :: true :: rest →
    ∃ t w, exec (.writeStatus bus addr len value) s = .next t ∧ s.Finished t .ok 0 ∧
      t.device bus = some { d.closed false with wel := w }

/-- What WRITE_STATUS leaves unchanged, whatever the transport answers: every array, every other device but for the time that
passed, the buffers, the splitter and RX_BYTE. -/
def Obligations.WriteStatusFrame : Prop :=
  ∀ (s t : State) (bus : BitVec 8) (addr len : BitVec 16) (value : BitVec 8),
    s.resetIn = none → bus.toNat < s.numBuses → exec (.writeStatus bus addr len value) s = .next t →
    (∀ b a, t.memByte b a = s.memByte b a) ∧
    (∀ b d, b ≠ bus → s.device b = some d →
      ∃ ms, (ms = 0 ∨ ms = 4) ∧ t.device b = some { d with wipMs := d.wipMs - ms }) ∧
    s.ChipSelectReleased bus t ∧ s.SurroundingsKept t ∧ s.SplitterKept t ∧ t.dst = s.dst ∧ t.rxByte = s.rxByte ∧
    State.Latched (requestFields opWriteStatus bus addr len value) t

/-- 40_status_accessor.md R127, which the spec derives from its rules R121, R126, R194, R197 and R205. -/
def Obligations.StatusRoundTrip : Prop :=
  ∀ (s : State) (bus : BitVec 8) (addr len addr' len' : BitVec 16) (v v' : BitVec 8) (d : Device)
    (txs : List Bool) (c : Nat) (rxs : List Nat),
    s.resetIn = none → s.device bus = some d → d.wipMs = 0 → ¬ (d.wpen = true ∧ s.par.wpN = false) →
    s.par.tWcDevice ≤ 4 → s.txAnswers = true :: true :: true :: txs → s.rxAnswers = (c + 1) :: rxs →
    ∃ t u, exec (.writeStatus bus addr len v) s = .next t ∧ exec (.readStatus bus addr' len' v') t = .next u ∧
      u.resultStatus = 0 ∧ u.resultValue = v &&& 0x8C#8

/-! ## READ_BYTE and READ (42_read_engine.md R172, R176) -/

/-- READ_BYTE of an address in the array runs in its four events, and a Delay of 4 ms on success when READ_SETTLE; it posts OK
with the byte received, or NO_DATA with 0x00 when none came. -/
def Obligations.ReadByteRunsItsEvents : Prop :=
  ∀ (s : State) (bus : BitVec 8) (addr len : BitVec 16) (value : BitVec 8),
    s.resetIn = none → bus.toNat < s.numBuses → addr.toNat < s.par.deviceSize →
    ∃ (t : State) (got : List (BitVec 8)), exec (.readByte bus addr len value) s = .next t ∧ got.length ≤ 1 ∧
      t.trace = [.select bus, .tx bus [0x03#8, hi8 addr, lo8 addr] s.nextTx, .rx bus 1 got, .deselect bus] ++
        (if got.length = 1 ∧ s.par.readSettle = true then [.delay 4] else []) ∧
      (∀ v, got = [v] → s.Finished t .ok v) ∧ (got = [] → s.Finished t .noData 0)

/-- READ_BYTE returns the array's byte from an idle device (42_read_engine.md R172, 43_device_commands.md R198). -/
def Obligations.ReadByteReturnsTheByte : Prop :=
  ∀ (s : State) (bus : BitVec 8) (addr len : BitVec 16) (value : BitVec 8) (d : Device) (c : Nat) (rest : List Nat),
    s.resetIn = none → s.device bus = some d → addr.toNat < s.par.deviceSize → d.wipMs = 0 → s.nextTx = true →
    s.rxAnswers = (c + 1) :: rest →
    ∃ t, exec (.readByte bus addr len value) s = .next t ∧ s.Finished t .ok (s.memByte bus addr.toNat)

/-- READ of a range in the array into a buffer with the room runs in its four events, one transaction whatever its length, and
a Delay of 4 ms on success when READ_SETTLE; TRANSPORT_FAIL when fewer bytes than LEN came; on success DST[0..LEN) is what was
received; bytes of DST at LEN and beyond are never written (42_read_engine.md R176 to R179). -/
def Obligations.ReadRunsItsEvents : Prop :=
  ∀ (s : State) (bus : BitVec 8) (addr len : BitVec 16) (value : BitVec 8),
    s.resetIn = none → s.Accepts bus addr.toNat len.toNat → len.toNat ≤ s.dst.length →
    ∃ (t : State) (got : List (BitVec 8)), exec (.read bus addr len value) s = .next t ∧ got.length ≤ len.toNat ∧
      t.trace = [.select bus, .tx bus [0x03#8, hi8 addr, lo8 addr] s.nextTx, .rx bus len.toNat got, .deselect bus] ++
        (if got.length = len.toNat ∧ s.par.readSettle = true then [.delay 4] else []) ∧
      (got.length = len.toNat → s.Finished t .ok 0 ∧ t.dst = got ++ s.dst.drop len.toNat) ∧
      (got.length ≠ len.toNat → s.Finished t .transportFail 0) ∧
      t.dst.length = s.dst.length ∧ t.dst.drop len.toNat = s.dst.drop len.toNat

/-- READ fills DST with the array's bytes from an idle device, across any page boundaries (42_read_engine.md R176, R177;
20_memory.md R64). -/
def Obligations.ReadFillsTheBuffer : Prop :=
  ∀ (s : State) (bus : BitVec 8) (addr len : BitVec 16) (value : BitVec 8) (d : Device) (c : Nat) (rest : List Nat),
    s.resetIn = none → s.Accepts bus addr.toNat len.toNat → len.toNat ≤ s.dst.length →
    s.device bus = some d → d.wipMs = 0 → s.nextTx = true → s.rxAnswers = c :: rest → len.toNat ≤ c →
    ∃ t, exec (.read bus addr len value) s = .next t ∧ s.Finished t .ok 0 ∧
      ∀ k, k < len.toNat → t.dst[k]? = some (s.memByte bus (addr.toNat + k))

/-- What READ and READ_BYTE leave unchanged, whatever the transport answers (20_memory.md R69): every device's array and status
bits, every device's write cycle but for the settle delay, SRC and the splitter; READ_BYTE leaves DST, READ leaves RX_BYTE. That
the settle delay passes on every other bus too is the model's reading of R205 (log entry 15). -/
def Obligations.ReadsFrame : Prop :=
  ∀ (s t : State) (bus : BitVec 8) (addr len : BitVec 16) (value : BitVec 8) (i : Instr),
    s.resetIn = none → bus.toNat < s.numBuses → exec i s = .next t →
    ((i = .read bus addr len value ∧ s.Accepts bus addr.toNat len.toNat) ∨
      (i = .readByte bus addr len value ∧ addr.toNat < s.par.deviceSize)) →
    (∃ ms, (ms = 0 ∨ ms = 4) ∧ s.DevicesKeptFor ms t ∧
      ∀ b d, b ≠ bus → s.device b = some d → t.device b = some { d with wipMs := d.wipMs - ms }) ∧
    s.ChipSelectReleased bus t ∧ s.SurroundingsKept t ∧ s.SplitterKept t ∧
    (i = .readByte bus addr len value →
      t.dst = s.dst ∧ State.Latched (requestFields opReadByte bus addr len value) t) ∧
    (i = .read bus addr len value →
      t.rxByte = s.rxByte ∧ State.Latched (requestFields opRead bus addr len value) t)

/-! ## WRITE (41_page_write.md) -/

/-- A WRITE that the checks accept runs and ends, whatever the transport answers, with OK or TRANSPORT_FAIL and value 0x00. -/
def Obligations.WriteRunsToAResult : Prop :=
  ∀ (s : State) (bus : BitVec 8) (addr len : BitVec 16) (value : BitVec 8),
    s.resetIn = none → s.Accepts bus addr.toNat len.toNat → len.toNat ≤ s.src.length →
    ∃ t, exec (.write bus addr len value) s = .next t ∧ (s.Finished t .ok 0 ∨ s.Finished t .transportFail 0)

/-- 41_page_write.md R141, R142: W_PLAN computes the bytes left in the page and the next chunk's length, and writes nothing else. -/
def Obligations.PlanComputesTheChunk : Prop :=
  ∀ s : State, s.phase = .wPlan → s.resetIn = none →
    ∃ t, step s = .next t ∧ t.pageRem = 16 - s.curAddr.toNat % 16 ∧ 1 ≤ t.pageRem ∧ t.pageRem ≤ 16 ∧
      (t.pageRem = 16 ↔ s.curAddr.toNat % 16 = 0) ∧ (t.pageRem = 1 ↔ s.curAddr.toNat % 16 = 15) ∧
      t.chunkLen = (if t.pageRem < s.remLen.toNat then t.pageRem else s.remLen.toNat) ∧
      s.curAddr.toNat % 16 + t.chunkLen ≤ 16 ∧ t.phase = .wEnSel ∧
      { t with pageRem := s.pageRem, chunkLen := s.chunkLen, phase := s.phase } = s

/-- The trace and result of a WRITE under every script of answers: the chunks of the closed form, each with its own WREN
transaction before its WRITE transaction and a Delay of 4 ms after it, up to the first failed WRITE frame; OK exactly when
none fails (41_page_write.md R147, R149, R150, R151; the closed form of R146, R153 and R155 is the spec's own derivation). -/
def Obligations.WriteSendsItsChunks : Prop :=
  ∀ (s : State) (bus : BitVec 8) (addr len : BitVec 16) (value : BitVec 8) (script rest : List Bool),
    s.par.Legal → s.resetIn = none → s.Accepts bus addr.toNat len.toNat → len.toNat ≤ s.src.length →
    s.txAnswers = script ++ rest → script.length = 2 * chunkCount addr.toNat len.toNat →
    ∃ t, exec (.write bus addr len value) s = .next t ∧
      t.trace = (writeEvents bus s.src (writeChunks addr.toNat len.toNat) script).1 ∧
      s.Finished t (if (writeEvents bus s.src (writeChunks addr.toNat len.toNat) script).2 then .ok else .transportFail) 0

/-- 41_page_write.md R156. -/
def Obligations.ZeroLengthWriteSendsOneEmptyFrame : Prop :=
  ∀ (s : State) (bus : BitVec 8) (addr : BitVec 16) (value : BitVec 8) (w : Bool) (rest : List Bool),
    s.resetIn = none → s.Accepts bus addr.toNat 0 → s.txAnswers = w :: true :: rest →
    ∃ t, exec (.write bus addr 0 value) s = .next t ∧ s.Finished t .ok 0 ∧
      t.trace = [.select bus, .tx bus [0x06#8] w, .deselect bus, .select bus, .tx bus [0x02#8, hi8 addr, lo8 addr] true,
        .deselect bus, .delay 4]

/-- 41_page_write.md R152, 43_device_commands.md R193, R196: every frame any request transmits is a command of the right length,
a WRITE frame carries bytes of one page only, and WRDI is never sent; on every state, whatever the transport answers and
wherever a reset lands. -/
def Obligations.RequestsSendOnlySoundFrames : Prop :=
  ∀ (i : Instr) (s t : State), isRequest i = true → exec i s = .next t → FramesSound t.trace

/-- 43_device_commands.md R207, which the spec derives from its rules R147, R192, R194, R199 and R205: the effect of one chunk.
The premises on the splitter registers are those W_PLAN finds in a WRITE in progress (`Inv.splitter`). -/
def Obligations.OneChunkWritesItsBytes : Prop :=
  ∀ (s : State) (d : Device) (rest : List Bool),
    s.par.Legal → s.resetIn = none → s.phase = .wPlan → s.device s.reqBus = some d → Memory.wf d.mem →
    1 ≤ s.remLen.toNat → s.curAddr.toNat + s.remLen.toNat ≤ s.par.deviceSize →
    s.curOff.toNat + s.remLen.toNat ≤ s.src.length →
    d.wipMs = 0 → d.protects s.par (s.curAddr.toNat - s.curAddr.toNat % 16) = false → s.par.tWcDevice ≤ 4 →
    s.txAnswers = true :: true :: rest →
    ∃ t e, runLines 8 s = .next t ∧ t.device s.reqBus = some e ∧ e.wel = false ∧ e.wipMs = 0 ∧
      ∀ a, t.memByte s.reqBus a =
        if s.curAddr.toNat ≤ a ∧ a < s.curAddr.toNat + chunkLength s.curAddr.toNat s.remLen.toNat
        then s.src.getD (s.curOff.toNat + (a - s.curAddr.toNat)) 0 else s.memByte s.reqBus a

/-- The effect of a whole WRITE at an idle, fast enough device that protects none of its bytes: exactly its bytes are stored,
across any number of pages (41_page_write.md R147, 43_device_commands.md R199, R207). -/
def Obligations.WriteStoresExactlyItsBytes : Prop :=
  ∀ (s : State) (bus : BitVec 8) (addr len : BitVec 16) (value : BitVec 8) (d : Device) (rest : List Bool),
    s.par.Legal → s.resetIn = none → s.Accepts bus addr.toNat len.toNat → len.toNat ≤ s.src.length →
    s.device bus = some d → Memory.wf d.mem → d.wipMs = 0 → s.par.tWcDevice ≤ 4 →
    (∀ a, addr.toNat ≤ a → a < addr.toNat + len.toNat → d.protects s.par a = false) →
    s.txAnswers = List.replicate (2 * chunkCount addr.toNat len.toNat) true ++ rest →
    ∃ t e, exec (.write bus addr len value) s = .next t ∧ s.Finished t .ok 0 ∧ t.device bus = some e ∧ e.wipMs = 0 ∧
      (1 ≤ len.toNat → e.wel = false) ∧
      ∀ a, t.memByte bus a =
        if addr.toNat ≤ a ∧ a < addr.toNat + len.toNat then s.src.getD (a - addr.toNat) 0 else s.memByte bus a

/-- What a WRITE leaves unchanged, whatever the transport answers: every byte outside the pages it touches, every other bus's
device but for 4 ms for each Delay of the trace, the status register's nonvolatile bits, both buffers and RX_BYTE. When no
exchange fails, every byte outside `ADDR .. ADDR+LEN-1` (41_page_write.md R147, 43_device_commands.md R199, R203). That the
delays pass on every other bus too is the model's reading of R205 (log entry 15). -/
def Obligations.WriteFrame : Prop :=
  ∀ (s t : State) (bus : BitVec 8) (addr len : BitVec 16) (value : BitVec 8),
    s.par.Legal → s.resetIn = none → s.Accepts bus addr.toNat len.toNat →
    exec (.write bus addr len value) s = .next t →
    (∀ a, (a / 16 < addr.toNat / 16 ∨ (addr.toNat + (len.toNat - 1)) / 16 < a / 16) → t.memByte bus a = s.memByte bus a) ∧
    (∀ rest, s.txAnswers = List.replicate (2 * chunkCount addr.toNat len.toNat) true ++ rest →
      ∀ a, (a < addr.toNat ∨ addr.toNat + len.toNat ≤ a) → t.memByte bus a = s.memByte bus a) ∧
    (∀ b d, b ≠ bus → s.device b = some d → t.device b = some { d with wipMs := d.wipMs - 4 * t.trace.count (.delay 4) }) ∧
    (∀ d e, s.device bus = some d → t.device bus = some e → e.wpen = d.wpen ∧ e.bp1 = d.bp1 ∧ e.bp0 = d.bp0) ∧
    s.ChipSelectReleased bus t ∧ s.SurroundingsKept t ∧ t.dst = s.dst ∧ t.rxByte = s.rxByte ∧
    State.Latched (requestFields opWrite bus addr len value) t

/-- 20_memory.md R71, 70_reset_and_hazards.md R272: a WRITE to protected pages returns OK and changes no byte. -/
def Obligations.ProtectedWriteIsSilent : Prop :=
  ∀ (s : State) (bus : BitVec 8) (addr len : BitVec 16) (value : BitVec 8) (d : Device) (rest : List Bool),
    s.par.Legal → s.resetIn = none → s.Accepts bus addr.toNat len.toNat → len.toNat ≤ s.src.length →
    s.device bus = some d → d.protects s.par (addr.toNat - addr.toNat % 16) = true →
    s.txAnswers = List.replicate (2 * chunkCount addr.toNat len.toNat) true ++ rest →
    ∃ t, exec (.write bus addr len value) s = .next t ∧ s.Finished t .ok 0 ∧ ∀ a, t.memByte bus a = s.memByte bus a

/-- 70_reset_and_hazards.md R268: with a device slower than the delay, the second chunk of a WRITE over two pages is ignored,
and the request returns OK with that chunk not written. -/
def Obligations.SlowDeviceLosesTheSecondChunk : Prop :=
  ∀ (s : State) (bus : BitVec 8) (addr len : BitVec 16) (value : BitVec 8) (d : Device) (rest : List Bool),
    s.par.Legal → s.resetIn = none → s.Accepts bus addr.toNat len.toNat → len.toNat ≤ s.src.length →
    s.device bus = some d → Memory.wf d.mem → d.wipMs = 0 → 4 < s.par.tWcDevice →
    (∀ a, addr.toNat ≤ a → a < addr.toNat + len.toNat → d.protects s.par a = false) →
    chunkCount addr.toNat len.toNat = 2 → s.txAnswers = List.replicate 4 true ++ rest →
    ∃ t, exec (.write bus addr len value) s = .next t ∧ s.Finished t .ok 0 ∧
      ∀ a, t.memByte bus a =
        if addr.toNat ≤ a ∧ a < (addr.toNat / 16 + 1) * 16 then s.src.getD (a - addr.toNat) 0 else s.memByte bus a

/-- 42_read_engine.md R180, which the spec derives from its rules R147, R176, R198, R199 and R205. -/
def Obligations.WriteReadRoundTrip : Prop :=
  ∀ (s : State) (bus : BitVec 8) (addr len : BitVec 16) (value value' : BitVec 8) (d : Device) (buf : List (BitVec 8))
    (txs : List Bool) (c : Nat) (rxs : List Nat),
    s.par.Legal → s.resetIn = none → s.Accepts bus addr.toNat len.toNat → len.toNat ≤ s.src.length →
    len.toNat ≤ buf.length → s.device bus = some d → Memory.wf d.mem → d.wipMs = 0 → s.par.tWcDevice ≤ 4 →
    (∀ a, addr.toNat ≤ a → a < addr.toNat + len.toNat → d.protects s.par a = false) →
    s.txAnswers = List.replicate (2 * chunkCount addr.toNat len.toNat + 1) true ++ txs →
    s.rxAnswers = c :: rxs → len.toNat ≤ c →
    ∃ t u, exec (.write bus addr len value) s = .next t ∧ t.resultStatus = 0 ∧
      exec (.read bus addr len value') { t with dst := buf } = .next u ∧ u.resultStatus = 0 ∧
      u.dst.take len.toNat = s.src.take len.toNat

/-! ## Device frames (43_device_commands.md)

What the device does is what the spec takes from general knowledge of the family (log entry 25). -/

/-- WREN (R194, R201): sets WEL at an idle device and nothing at a busy one; nothing else of the device changes. -/
def Obligations.WrenSetsTheLatch : Prop :=
  ∀ (s : State) (d : Device), s.device s.benchBus = some d → s.nextTx = true →
    ∃ t, exec .wren s = .next t ∧
      t.device s.benchBus = some { d.closed false with wel := if d.wipMs = 0 then true else d.wel }

/-- WRDI (R196, R201): clears WEL at an idle device and nothing at a busy one; nothing else of the device changes. -/
def Obligations.WrdiClearsTheLatch : Prop :=
  ∀ (s : State) (d : Device), s.device s.benchBus = some d → s.nextTx = true →
    ∃ t, exec .wrdi s = .next t ∧
      t.device s.benchBus = some { d.closed false with wel := if d.wipMs = 0 then false else d.wel }

/-- RDSR (R195, R201, R203): whatever receive exchanges follow and however they are answered, nothing of the device changes but
that its frame is closed; each successful exchange delivers the status register for each byte asked, busy or not. -/
def Obligations.RdsrOutputsTheRegister : Prop :=
  ∀ (s : State) (d : Device), s.device s.benchBus = some d → s.nextTx = true →
    ∃ t v, exec .rdsr s = .next t ∧ t.device s.benchBus = some (d.closed false) ∧
      Delivered s.benchRx s.rxAnswers t.benchGot ∧
      (∀ (k n : Nat) (xs : List (BitVec 8)), s.benchRx[k]? = some n → t.benchGot[k]? = some xs → xs.length = n →
        xs = List.replicate n v) ∧
      v.toNat = d.wpen.toNat * 128 + d.bp1.toNat * 8 + d.bp0.toNat * 4 + d.wel.toNat * 2 + (if 0 < d.wipMs then 1 else 0)

/-- WRSR (R197, R201): no effect at a busy device or with WEL clear; on a locked register only WEL may change; else WPEN, BP1 and
BP0 are written, WEL is cleared and a write cycle starts. -/
def Obligations.WrsrWritesTheRegister : Prop :=
  ∀ (s : State) (d : Device) (v : BitVec 8), s.device s.benchBus = some d → s.nextTx = true →
    ∃ t e, exec (.wrsr v) s = .next t ∧ t.device s.benchBus = some e ∧
      (0 < d.wipMs ∨ d.wel = false → e = d.closed false) ∧
      (d.wipMs = 0 → d.wel = true → d.wpen = true → s.par.wpN = false → ∃ w, e = { d.closed false with wel := w }) ∧
      (d.wipMs = 0 → d.wel = true → ¬ (d.wpen = true ∧ s.par.wpN = false) →
        e = { d.closed false with
          wpen := v.getLsbD 7, bp1 := v.getLsbD 3, bp0 := v.getLsbD 2, wel := false, wipMs := s.par.tWcDevice })

/-- READ (R198, R201, R203, R204): whatever receive exchanges follow and however they are answered, nothing of the device changes
but that its frame is closed, busy or not. An idle device outputs consecutive bytes from the address, modulo DEVICE_SIZE, the
count going on from one successful exchange of the frame to the next. -/
def Obligations.ReadFrameStreamsTheArray : Prop :=
  ∀ (s : State) (d : Device) (addr : BitVec 16), s.device s.benchBus = some d → s.nextTx = true →
    ∃ t, exec (.readFrame addr) s = .next t ∧ t.device s.benchBus = some (d.closed false) ∧
      Delivered s.benchRx s.rxAnswers t.benchGot ∧
      (d.wipMs = 0 → ∀ k n : Nat, s.benchRx[k]? = some n →
        (∀ j, j ≤ k → (t.benchGot[j]?).map List.length = s.benchRx[j]?) →
        t.benchGot[k]? = some ((List.range n).map fun i =>
          Memory.read d.mem ((addr.toNat % s.par.deviceSize + (s.benchRx.take k).sum + i) % s.par.deviceSize)))

/-- WRITE (R199, R204): an idle device with WEL set stores a nonempty data run in the page of the address, wrapping within it,
later bytes over earlier ones, clears WEL and starts a write cycle; no other byte changes. -/
def Obligations.WriteFrameStoresInThePage : Prop :=
  ∀ (s : State) (d : Device) (addr : BitVec 16) (data : List (BitVec 8)),
    s.device s.benchBus = some d → s.nextTx = true → Memory.wf d.mem → d.wipMs = 0 → d.wel = true → data ≠ [] →
    d.protects s.par (devicePageBase s.par addr) = false →
    ∃ t m, exec (.writeFrame addr data) s = .next t ∧
      t.device s.benchBus = some { d.closed false with mem := m, wel := false, wipMs := s.par.tWcDevice } ∧
      (∀ i, i < data.length → data.length ≤ i + 16 →
        Memory.read m (devicePageBase s.par addr + (devicePageOffset s.par addr + i) % 16) = data.getD i 0) ∧
      (∀ a, (∀ i, i < data.length → a ≠ devicePageBase s.par addr + (devicePageOffset s.par addr + i) % 16) →
        Memory.read m a = Memory.read d.mem a)

/-- WRITE (R199, R200, R201): no effect at a busy device, with WEL clear or with no data; on a protected page only WEL may change. -/
def Obligations.WriteFrameThatStoresNothing : Prop :=
  ∀ (s : State) (d : Device) (addr : BitVec 16) (data : List (BitVec 8)),
    s.device s.benchBus = some d → s.nextTx = true →
    ∃ t e, exec (.writeFrame addr data) s = .next t ∧ t.device s.benchBus = some e ∧
      (0 < d.wipMs ∨ d.wel = false ∨ data = [] → e = d.closed false) ∧
      (d.protects s.par (devicePageBase s.par addr) = true → ∃ w, e = { d.closed false with wel := w })

/-- 43_device_commands.md R200: the protected part of the array for each setting of BP1 and BP0. -/
def Obligations.BlockProtectionCoversItsPart : Prop :=
  ∀ (par : Config.Params) (d : Device) (a : Nat), par.Legal → a < par.deviceSize →
    (d.protects par a = true ↔
      (d.bp1 = true ∧ d.bp0 = true) ∨ (d.bp1 = true ∧ d.bp0 = false ∧ par.deviceSize / 2 ≤ a) ∨
      (d.bp1 = false ∧ d.bp0 = true ∧ 3 * par.deviceSize / 4 ≤ a))

/-- 43_device_commands.md R203: after a failed exchange, only what the intended command could change may differ, and a write
cycle is either over or of the full length. That the table holds at a busy device too, or with WEL clear or on a protected page,
is the model's reading (log entry 18), and so is that TAINT stays 1 after the Deselect (log entry 32). -/
def Obligations.FailedFrameGarblesOnlyItsCommand : Prop :=
  ∀ (s : State) (d : Device) (v : BitVec 8) (addr : BitVec 16) (data : List (BitVec 8)),
    s.device s.benchBus = some d → s.nextTx = false →
    (∃ t w, exec .wren s = .next t ∧ t.device s.benchBus = some { d.closed true with wel := w }) ∧
    (∃ t w, exec .wrdi s = .next t ∧ t.device s.benchBus = some { d.closed true with wel := w }) ∧
    (∃ t, exec .rdsr s = .next t ∧ t.device s.benchBus = some (d.closed true)) ∧
    (∃ t, exec (.readFrame addr) s = .next t ∧ t.device s.benchBus = some (d.closed true)) ∧
    (∃ t w p b1 b0 ms, exec (.wrsr v) s = .next t ∧ (ms = 0 ∨ ms = s.par.tWcDevice) ∧
      t.device s.benchBus = some { d.closed true with wel := w, wpen := p, bp1 := b1, bp0 := b0, wipMs := ms }) ∧
    (∃ t m w ms, exec (.writeFrame addr data) s = .next t ∧ (ms = 0 ∨ ms = s.par.tWcDevice) ∧
      t.device s.benchBus = some { d.closed true with mem := m, wel := w, wipMs := ms } ∧
      ∀ a, (a < devicePageBase s.par addr ∨ devicePageBase s.par addr + 16 ≤ a) → Memory.read m a = Memory.read d.mem a)

/-- 43_device_commands.md R193, R202, 30_encoding.md R98: a frame that is no command changes no device state; a receive exchange
still gets as many bytes as the transport delivers. Driving a frame directly is the model's choice (log entry 13), and that the
frame changes nothing when its transmit exchange failed is the model's reading (log entry 17). -/
def Obligations.UnknownFrameIsIgnored : Prop :=
  ∀ (s : State) (d : Device) (bus : BitVec 8) (bytes : List (BitVec 8)) (rxs : List Nat) (rest : List HostAction),
    s.phase = .idle → s.host = .frame bus bytes rxs :: rest → (∀ i, decode (.frame bytes) ≠ .instr i) →
    s.device bus = some d →
    ∃ t taint, step s = .next t ∧ t.device bus = some (d.closed taint) ∧ Delivered rxs s.rxAnswers t.benchGot

/-- What the six frames leave unchanged: the block (PHASE, every engine register, the result, the trace), every chip-select line,
every other bus's device and the buffers (43_device_commands.md R190; log entry 13). -/
def Obligations.FramesLeaveTheBlockAlone : Prop :=
  ∀ (i : Instr) (s : State), isRequest i = false →
    ∃ t, exec i s = .next t ∧ (∀ b, b ≠ s.benchBus → t.device b = s.device b) ∧ (∀ b, t.chipSelect b = s.chipSelect b) ∧
      { t with buses := s.buses, draws := s.draws, txAnswers := s.txAnswers, rxAnswers := s.rxAnswers,
               benchGot := s.benchGot } = s

/-! ## Time, reset, invariant -/

/-- 43_device_commands.md R205, 60_exceptions.md R244: a host wait takes its milliseconds off every device's write cycle, not
below 0, and changes nothing else. That it does so at the device of every bus is the model's reading (log entry 15). -/
def Obligations.WaitRunsDownTheWriteCycle : Prop :=
  ∀ (s : State) (ms : Nat) (rest : List HostAction), s.phase = .idle → s.host = .wait ms :: rest →
    ∃ t, step s = .next t ∧ (∀ b d, s.device b = some d → t.device b = some { d with wipMs := d.wipMs - ms }) ∧
      (∀ b, t.chipSelect b = s.chipSelect b) ∧ { t with buses := s.buses, host := s.host } = s

/-- 70_reset_and_hazards.md R260, R261, R262, 43_device_commands.md R203: the platform's reset, taken in IDLE or before the line of
any other label, sets PHASE to IDLE and every CS to 0 and posts no result. A device whose CS was 0 is not touched; one whose CS
was 1 ends its frame, and of its state only what R203 lists for the frame's command may change: WEL by WREN, WRDI, WRSR and
WRITE; WPEN, BP1 and BP0 by WRSR; the page it names by WRITE; WIP_MS by WRSR and WRITE, which leave 0 or T_WC_DEVICE. The model's
choices: where a reset may land (log entry 20), the trace without the chip-select's fall (entry 21), DST of an abandoned READ
kept from LEN on (entry 19), an open frame that is no command changes nothing (entry 17), the table holds at a busy device too
(entry 18). -/
def Obligations.ResetReturnsToIdle : Prop :=
  ∀ s : State, ((s.phase ≠ .idle ∧ s.resetIn = some 0) ∨ (s.phase = .idle ∧ ∃ rest, s.host = .reset :: rest)) →
    ∃ t, step s = .next t ∧ t.phase = .idle ∧ t.posted = s.posted ∧ t.trace = s.trace ∧ t.numBuses = s.numBuses ∧
      t.src = s.src ∧ t.dst.drop s.reqLen.toNat = s.dst.drop s.reqLen.toNat ∧
      (s.phase = .idle ∨ s.reqOp ≠ opRead → t.dst = s.dst) ∧
      (∀ b, b.toNat < s.numBuses → t.chipSelect b = some false) ∧
      (∀ b, s.chipSelect b = some false → t.device b = s.device b) ∧
      (∀ b d, s.device b = some d → d.selected = true → s.chipSelect b = some true →
        ∃ e, t.device b = some e ∧ e.selected = false ∧ e.frame = [] ∧ d.MayFollowFailed s.par e)

/-- 10_state.md R48, 43_device_commands.md R206: what the spec states for reset and power-up. -/
def Obligations.ResetStateIsTheSpecs : Prop :=
  State.reset.phase = .idle ∧ (∀ b, b.toNat < State.reset.numBuses → State.reset.chipSelect b = some false) ∧
  State.reset.par.deviceSize = 2048 ∧ State.reset.par.readSettle = true ∧ State.reset.par.tWcDevice = 4 ∧
  (∀ b d, State.reset.device b = some d →
    d.wel = false ∧ d.wipMs = 0 ∧ d.wip = false ∧ d.frame = [] ∧ d.taint = false ∧ d.selected = false)

/-- The invariant holds at reset. -/
def Obligations.InvariantHoldsAtReset : Prop := State.reset.Inv

/-- From every state that meets the invariant, a step gives a state that meets it: canonical memories, chip-selects asserted
exactly inside the transactions of the request in progress, registers in their ranges, the checks of DECODE past, the splitter's
sums, sound frames on the trace. -/
def Obligations.StepKeepsTheInvariant : Prop :=
  ∀ s t : State, s.Inv → step s = .next t → t.Inv

/-- 60_exceptions.md R235: under the invariant a model fault is recorded only at DECODE: past it, every step of a request goes
on. -/
def Obligations.NoFaultPastDecode : Prop :=
  ∀ s : State, s.Inv → s.phase ≠ .idle → s.phase ≠ .decode → ∃ t, step s = .next t

/-- 60_exceptions.md R250: a receive exchange of n bytes never delivers more than n, and one of no bytes always succeeds. -/
def Obligations.ReceiveNeverDeliversMore : Prop :=
  ∀ (s : State) (b : BitVec 8) (n : Nat),
    (s.rxBytes b n).length = s.nextRx n ∧ s.nextRx n ≤ n ∧ s.nextRx 0 = 0
end

