-- ==== Sys2Proof/Laws/Memory.lean ====
section
/-! SUPPORT. The laws of the EEPROM array: read after write, everything else unchanged, and the canonical form kept. -/

namespace Sys2Proof.Machine

@[simp] theorem Memory.read_nil (a : Nat) : Memory.read [] a = Memory.blank := rfl

theorem Memory.wf_nil : Memory.wf [] := by simp [Memory.wf]

theorem Memory.wf_tail {c : Host.Cell} {m : List Host.Cell} (h : Memory.wf (c :: m)) : Memory.wf m :=
  ⟨h.1.tail, fun x hx => h.2 x (List.mem_cons_of_mem _ hx)⟩

/-- An address below every listed one reads as blank. -/
theorem Memory.read_below {m : List Host.Cell} {a : Nat} (h : ∀ c ∈ m, a < c.1) : Memory.read m a = Memory.blank := by
  induction m with
  | nil => rfl
  | cons c m ih =>
    have hc := h c (List.mem_cons_self ..)
    rw [Memory.read, if_neg (by omega)]
    exact ih fun x hx => h x (List.mem_cons_of_mem _ hx)

/-- A write leaves every other address as it was. -/
theorem Memory.read_write_ne (m : List Host.Cell) {a x : Nat} (v : BitVec 8) (h : x ≠ a) :
    Memory.read (Memory.write m a v) x = Memory.read m x := by
  induction m with
  | nil => unfold Memory.write; split <;> simp [Memory.read, h]
  | cons c m ih =>
    obtain ⟨k, w⟩ := c
    simp only [Memory.write]
    split
    · split <;> simp [Memory.read, h]
    · split
      · rename_i hk; subst hk; split <;> simp [Memory.read, h]
      · simp [Memory.read, ih]

/-- Read after write, on a memory in canonical form. -/
theorem Memory.read_write_same {m : List Host.Cell} (a : Nat) (v : BitVec 8) (hm : Memory.wf m) :
    Memory.read (Memory.write m a v) a = v := by
  induction m with
  | nil => unfold Memory.write; split <;> simp_all [Memory.read]
  | cons c m ih =>
    obtain ⟨k, w⟩ := c
    have hlt : ∀ x ∈ m, k < x.1 := fun x hx => (List.pairwise_cons.1 hm.1).1 x hx
    simp only [Memory.write]
    split
    · rename_i hk
      split
      · rename_i hv
        rw [hv, Memory.read, if_neg (by omega)]
        exact Memory.read_below fun x hx => lt_trans hk (hlt x hx)
      · simp [Memory.read]
    · split
      · rename_i hk; subst hk
        split
        · rename_i hv; rw [hv]; exact Memory.read_below hlt
        · simp [Memory.read]
      · rename_i h1 h2
        rw [Memory.read, if_neg h2]
        exact ih (Memory.wf_tail hm)

theorem Memory.read_write {m : List Host.Cell} (a x : Nat) (v : BitVec 8) (hm : Memory.wf m) :
    Memory.read (Memory.write m a v) x = if x = a then v else Memory.read m x := by
  split
  · rename_i h; subst h; exact Memory.read_write_same _ v hm
  · rename_i h; exact Memory.read_write_ne m v h

/-- What a write lists was listed or is the written cell. -/
theorem Memory.mem_write {m : List Host.Cell} {a : Nat} {v : BitVec 8} {c : Host.Cell} (h : c ∈ Memory.write m a v) :
    c ∈ m ∨ (c = (a, v) ∧ v ≠ Memory.blank) := by
  induction m with
  | nil =>
    unfold Memory.write at h
    split at h <;> simp_all
  | cons k m ih =>
    obtain ⟨k, w⟩ := k
    simp only [Memory.write] at h
    split at h
    · split at h <;> simp_all
      tauto
    · split at h
      · split at h
        · exact .inl (List.mem_cons_of_mem _ h)
        · rcases List.mem_cons.1 h with h | h
          · exact .inr ⟨h, by assumption⟩
          · exact .inl (List.mem_cons_of_mem _ h)
      · rcases List.mem_cons.1 h with h | h
        · exact .inl (h ▸ List.mem_cons_self ..)
        · exact (ih h).imp (List.mem_cons_of_mem _) id

/-- A write keeps the canonical form. -/
theorem Memory.wf_write {m : List Host.Cell} (a : Nat) (v : BitVec 8) (hm : Memory.wf m) :
    Memory.wf (Memory.write m a v) := by
  refine ⟨?_, fun c hc => ?_⟩
  · induction m with
    | nil => unfold Memory.write; split <;> simp
    | cons c m ih =>
      obtain ⟨k, w⟩ := c
      have hlt : ∀ x ∈ m, k < x.1 := (List.pairwise_cons.1 hm.1).1
      simp only [Memory.write]
      split
      · rename_i hk
        split
        · exact hm.1
        · refine List.pairwise_cons.2 ⟨fun x hx => ?_, hm.1⟩
          rcases List.mem_cons.1 hx with rfl | hx
          · exact hk
          · exact lt_trans hk (hlt x hx)
      · split
        · rename_i hk
          split
          · exact hm.1.tail
          · exact List.pairwise_cons.2 ⟨fun x hx => hk ▸ hlt x hx, hm.1.tail⟩
        · rename_i h1 h2
          refine List.pairwise_cons.2 ⟨fun x hx => ?_, ih (Memory.wf_tail hm)⟩
          rcases Memory.mem_write hx with hx | ⟨rfl, -⟩
          · exact hlt x hx
          · show k < a
            omega
  · rcases Memory.mem_write hc with hc | ⟨rfl, hv⟩
    · exact hm.2 c hc
    · exact hv

/-- A write inside the array keeps the memory inside it. -/
theorem Memory.within_write {m : List Host.Cell} {size a : Nat} (v : BitVec 8) (hm : Memory.within size m) (ha : a < size) :
    Memory.within size (Memory.write m a v) := by
  intro c hc
  rcases Memory.mem_write hc with hc | ⟨rfl, -⟩
  · exact hm c hc
  · exact ha

/-! ## Page writes -/

theorem Memory.wf_writePage (base : Nat) (data : List (BitVec 8)) :
    ∀ (o : Nat) {m : List Host.Cell}, Memory.wf m → Memory.wf (Memory.writePage m base o data) := by
  induction data with
  | nil => exact fun _ _ h => h
  | cons d data ih => exact fun o m h => ih (o + 1) (Memory.wf_write _ d h)

theorem Memory.within_writePage {size base : Nat} (hb : base + Config.pageSize ≤ size) (data : List (BitVec 8)) :
    ∀ (o : Nat) {m : List Host.Cell}, Memory.within size m → Memory.within size (Memory.writePage m base o data) := by
  induction data with
  | nil => exact fun _ _ h => h
  | cons d data ih =>
    intro o m h
    have : o % Config.pageSize < Config.pageSize := Nat.mod_lt _ (by decide)
    exact ih (o + 1) (Memory.within_write d h (by omega))

/-- A page write leaves every address it does not store to as it was. -/
theorem Memory.read_writePage_ne (base x : Nat) (data : List (BitVec 8)) :
    ∀ (o : Nat) (m : List Host.Cell), (∀ i, i < data.length → x ≠ base + (o + i) % Config.pageSize) →
      Memory.read (Memory.writePage m base o data) x = Memory.read m x := by
  induction data with
  | nil => exact fun _ _ _ => rfl
  | cons d data ih =>
    intro o m h
    rw [Memory.writePage, ih (o + 1) _ fun i hi => by
      have := h (i + 1) (by simpa using hi); rwa [show o + 1 + i = o + (i + 1) by omega]]
    exact Memory.read_write_ne m d (by simpa using h 0 (by simp))

/-- A page write leaves every address outside the page as it was. -/
theorem Memory.read_writePage_outside {base x : Nat} (h : x < base ∨ base + Config.pageSize ≤ x) (o : Nat)
    (m : List Host.Cell) (data : List (BitVec 8)) :
    Memory.read (Memory.writePage m base o data) x = Memory.read m x :=
  Memory.read_writePage_ne base x data o m fun i _ => by
    have : (o + i) % Config.pageSize < Config.pageSize := Nat.mod_lt _ (by decide)
    omega

/-- The last byte of the run that is stored at an address stays there. -/
theorem Memory.read_writePage_last (base : Nat) (data : List (BitVec 8)) :
    ∀ (o : Nat) {m : List Host.Cell}, Memory.wf m → ∀ i, i < data.length → data.length ≤ i + Config.pageSize →
      Memory.read (Memory.writePage m base o data) (base + (o + i) % Config.pageSize) = data.getD i 0 := by
  induction data with
  | nil => intro o m _ i hi; simp at hi
  | cons d data ih =>
    intro o m hm i hi hl
    rw [Memory.writePage]
    cases i with
    | zero =>
      rw [Memory.read_writePage_ne]
      · simp [Memory.read_write_same _ d hm]
      · intro j hj heq
        simp only [List.length_cons] at hl
        simp only [Config.pageSize] at *
        omega
    | succ i =>
      have := ih (o + 1) (Memory.wf_write (base + o % Config.pageSize) d hm) i (by simpa using hi)
        (by simp only [List.length_cons] at hl; omega)
      rw [show o + (i + 1) = o + 1 + i by omega, this]
      simp

/-- A run that stays in its page is stored in ascending order (20_memory.md R64). -/
theorem Memory.read_writePage_inPage {m : List Host.Cell} {base o : Nat} {data : List (BitVec 8)} (hm : Memory.wf m)
    (h : o + data.length ≤ Config.pageSize) (x : Nat) :
    Memory.read (Memory.writePage m base o data) x =
      if base + o ≤ x ∧ x < base + o + data.length then data.getD (x - (base + o)) 0 else Memory.read m x := by
  split
  · rename_i hx
    have := Memory.read_writePage_last base data o hm (x - (base + o)) (by omega) (by omega)
    rwa [Nat.mod_eq_of_lt (by omega), show base + (o + (x - (base + o))) = x by omega] at this
  · rename_i hx
    refine Memory.read_writePage_ne base x data o m fun i hi => ?_
    rw [Nat.mod_eq_of_lt (by omega)]
    omega

@[simp] theorem Memory.length_readRun (m : List Host.Cell) (size a n : Nat) : (Memory.readRun m size a n).length = n := by
  simp [Memory.readRun]

end Sys2Proof.Machine
end

