-- ==== Sys2Proof/Laws/State.lean ====
section
/-! SUPPORT. One lemma per field per operation on the state: what each operation leaves as it was, and what it writes. -/

namespace Sys2Proof.Machine

variable (s : State)

/-! ## `State.record` -/

@[simp] theorem State.record_buses (e : Event) : (s.record e).buses = s.buses := rfl
@[simp] theorem State.record_trace (e : Event) : (s.record e).trace = s.trace ++ [e] := rfl
@[simp] theorem State.record_draws (e : Event) : (s.record e).draws = s.draws := rfl
@[simp] theorem State.record_txAnswers (e : Event) : (s.record e).txAnswers = s.txAnswers := rfl
@[simp] theorem State.record_rxAnswers (e : Event) : (s.record e).rxAnswers = s.rxAnswers := rfl
@[simp] theorem State.record_host (e : Event) : (s.record e).host = s.host := rfl
@[simp] theorem State.record_resetIn (e : Event) : (s.record e).resetIn = s.resetIn := rfl
@[simp] theorem State.record_par (e : Event) : (s.record e).par = s.par := rfl
@[simp] theorem State.record_phase (e : Event) : (s.record e).phase = s.phase := rfl
@[simp] theorem State.record_reqOp (e : Event) : (s.record e).reqOp = s.reqOp := rfl
@[simp] theorem State.record_reqBus (e : Event) : (s.record e).reqBus = s.reqBus := rfl
@[simp] theorem State.record_reqAddr (e : Event) : (s.record e).reqAddr = s.reqAddr := rfl
@[simp] theorem State.record_reqLen (e : Event) : (s.record e).reqLen = s.reqLen := rfl
@[simp] theorem State.record_reqValue (e : Event) : (s.record e).reqValue = s.reqValue := rfl
@[simp] theorem State.record_reqRsv0 (e : Event) : (s.record e).reqRsv0 = s.reqRsv0 := rfl
@[simp] theorem State.record_reqRsv1 (e : Event) : (s.record e).reqRsv1 = s.reqRsv1 := rfl
@[simp] theorem State.record_src (e : Event) : (s.record e).src = s.src := rfl
@[simp] theorem State.record_dst (e : Event) : (s.record e).dst = s.dst := rfl
@[simp] theorem State.record_curAddr (e : Event) : (s.record e).curAddr = s.curAddr := rfl
@[simp] theorem State.record_curOff (e : Event) : (s.record e).curOff = s.curOff := rfl
@[simp] theorem State.record_remLen (e : Event) : (s.record e).remLen = s.remLen := rfl
@[simp] theorem State.record_pageRem (e : Event) : (s.record e).pageRem = s.pageRem := rfl
@[simp] theorem State.record_chunkLen (e : Event) : (s.record e).chunkLen = s.chunkLen := rfl
@[simp] theorem State.record_xferOk (e : Event) : (s.record e).xferOk = s.xferOk := rfl
@[simp] theorem State.record_rxByte (e : Event) : (s.record e).rxByte = s.rxByte := rfl
@[simp] theorem State.record_stage (e : Event) : (s.record e).stage = s.stage := rfl
@[simp] theorem State.record_stageLen (e : Event) : (s.record e).stageLen = s.stageLen := rfl
@[simp] theorem State.record_resultStatus (e : Event) : (s.record e).resultStatus = s.resultStatus := rfl
@[simp] theorem State.record_resultValue (e : Event) : (s.record e).resultValue = s.resultValue := rfl
@[simp] theorem State.record_posted (e : Event) : (s.record e).posted = s.posted := rfl
@[simp] theorem State.record_benchBus (e : Event) : (s.record e).benchBus = s.benchBus := rfl
@[simp] theorem State.record_benchRx (e : Event) : (s.record e).benchRx = s.benchRx := rfl
@[simp] theorem State.record_benchGot (e : Event) : (s.record e).benchGot = s.benchGot := rfl

/-! ## `State.goto` -/

@[simp] theorem State.goto_buses (p : Phase) : (s.goto p).buses = s.buses := rfl
@[simp] theorem State.goto_trace (p : Phase) : (s.goto p).trace = s.trace := rfl
@[simp] theorem State.goto_draws (p : Phase) : (s.goto p).draws = s.draws := rfl
@[simp] theorem State.goto_txAnswers (p : Phase) : (s.goto p).txAnswers = s.txAnswers := rfl
@[simp] theorem State.goto_rxAnswers (p : Phase) : (s.goto p).rxAnswers = s.rxAnswers := rfl
@[simp] theorem State.goto_host (p : Phase) : (s.goto p).host = s.host := rfl
@[simp] theorem State.goto_resetIn (p : Phase) : (s.goto p).resetIn = s.resetIn := rfl
@[simp] theorem State.goto_par (p : Phase) : (s.goto p).par = s.par := rfl
@[simp] theorem State.goto_phase (p : Phase) : (s.goto p).phase = p := rfl
@[simp] theorem State.goto_reqOp (p : Phase) : (s.goto p).reqOp = s.reqOp := rfl
@[simp] theorem State.goto_reqBus (p : Phase) : (s.goto p).reqBus = s.reqBus := rfl
@[simp] theorem State.goto_reqAddr (p : Phase) : (s.goto p).reqAddr = s.reqAddr := rfl
@[simp] theorem State.goto_reqLen (p : Phase) : (s.goto p).reqLen = s.reqLen := rfl
@[simp] theorem State.goto_reqValue (p : Phase) : (s.goto p).reqValue = s.reqValue := rfl
@[simp] theorem State.goto_reqRsv0 (p : Phase) : (s.goto p).reqRsv0 = s.reqRsv0 := rfl
@[simp] theorem State.goto_reqRsv1 (p : Phase) : (s.goto p).reqRsv1 = s.reqRsv1 := rfl
@[simp] theorem State.goto_src (p : Phase) : (s.goto p).src = s.src := rfl
@[simp] theorem State.goto_dst (p : Phase) : (s.goto p).dst = s.dst := rfl
@[simp] theorem State.goto_curAddr (p : Phase) : (s.goto p).curAddr = s.curAddr := rfl
@[simp] theorem State.goto_curOff (p : Phase) : (s.goto p).curOff = s.curOff := rfl
@[simp] theorem State.goto_remLen (p : Phase) : (s.goto p).remLen = s.remLen := rfl
@[simp] theorem State.goto_pageRem (p : Phase) : (s.goto p).pageRem = s.pageRem := rfl
@[simp] theorem State.goto_chunkLen (p : Phase) : (s.goto p).chunkLen = s.chunkLen := rfl
@[simp] theorem State.goto_xferOk (p : Phase) : (s.goto p).xferOk = s.xferOk := rfl
@[simp] theorem State.goto_rxByte (p : Phase) : (s.goto p).rxByte = s.rxByte := rfl
@[simp] theorem State.goto_stage (p : Phase) : (s.goto p).stage = s.stage := rfl
@[simp] theorem State.goto_stageLen (p : Phase) : (s.goto p).stageLen = s.stageLen := rfl
@[simp] theorem State.goto_resultStatus (p : Phase) : (s.goto p).resultStatus = s.resultStatus := rfl
@[simp] theorem State.goto_resultValue (p : Phase) : (s.goto p).resultValue = s.resultValue := rfl
@[simp] theorem State.goto_posted (p : Phase) : (s.goto p).posted = s.posted := rfl
@[simp] theorem State.goto_benchBus (p : Phase) : (s.goto p).benchBus = s.benchBus := rfl
@[simp] theorem State.goto_benchRx (p : Phase) : (s.goto p).benchRx = s.benchRx := rfl
@[simp] theorem State.goto_benchGot (p : Phase) : (s.goto p).benchGot = s.benchGot := rfl

/-! ## `State.drew` -/

@[simp] theorem State.drew_buses (n : Nat) : (s.drew n).buses = s.buses := rfl
@[simp] theorem State.drew_trace (n : Nat) : (s.drew n).trace = s.trace := rfl
@[simp] theorem State.drew_draws (n : Nat) : (s.drew n).draws = s.draws + n := rfl
@[simp] theorem State.drew_txAnswers (n : Nat) : (s.drew n).txAnswers = s.txAnswers := rfl
@[simp] theorem State.drew_rxAnswers (n : Nat) : (s.drew n).rxAnswers = s.rxAnswers := rfl
@[simp] theorem State.drew_host (n : Nat) : (s.drew n).host = s.host := rfl
@[simp] theorem State.drew_resetIn (n : Nat) : (s.drew n).resetIn = s.resetIn := rfl
@[simp] theorem State.drew_par (n : Nat) : (s.drew n).par = s.par := rfl
@[simp] theorem State.drew_phase (n : Nat) : (s.drew n).phase = s.phase := rfl
@[simp] theorem State.drew_reqOp (n : Nat) : (s.drew n).reqOp = s.reqOp := rfl
@[simp] theorem State.drew_reqBus (n : Nat) : (s.drew n).reqBus = s.reqBus := rfl
@[simp] theorem State.drew_reqAddr (n : Nat) : (s.drew n).reqAddr = s.reqAddr := rfl
@[simp] theorem State.drew_reqLen (n : Nat) : (s.drew n).reqLen = s.reqLen := rfl
@[simp] theorem State.drew_reqValue (n : Nat) : (s.drew n).reqValue = s.reqValue := rfl
@[simp] theorem State.drew_reqRsv0 (n : Nat) : (s.drew n).reqRsv0 = s.reqRsv0 := rfl
@[simp] theorem State.drew_reqRsv1 (n : Nat) : (s.drew n).reqRsv1 = s.reqRsv1 := rfl
@[simp] theorem State.drew_src (n : Nat) : (s.drew n).src = s.src := rfl
@[simp] theorem State.drew_dst (n : Nat) : (s.drew n).dst = s.dst := rfl
@[simp] theorem State.drew_curAddr (n : Nat) : (s.drew n).curAddr = s.curAddr := rfl
@[simp] theorem State.drew_curOff (n : Nat) : (s.drew n).curOff = s.curOff := rfl
@[simp] theorem State.drew_remLen (n : Nat) : (s.drew n).remLen = s.remLen := rfl
@[simp] theorem State.drew_pageRem (n : Nat) : (s.drew n).pageRem = s.pageRem := rfl
@[simp] theorem State.drew_chunkLen (n : Nat) : (s.drew n).chunkLen = s.chunkLen := rfl
@[simp] theorem State.drew_xferOk (n : Nat) : (s.drew n).xferOk = s.xferOk := rfl
@[simp] theorem State.drew_rxByte (n : Nat) : (s.drew n).rxByte = s.rxByte := rfl
@[simp] theorem State.drew_stage (n : Nat) : (s.drew n).stage = s.stage := rfl
@[simp] theorem State.drew_stageLen (n : Nat) : (s.drew n).stageLen = s.stageLen := rfl
@[simp] theorem State.drew_resultStatus (n : Nat) : (s.drew n).resultStatus = s.resultStatus := rfl
@[simp] theorem State.drew_resultValue (n : Nat) : (s.drew n).resultValue = s.resultValue := rfl
@[simp] theorem State.drew_posted (n : Nat) : (s.drew n).posted = s.posted := rfl
@[simp] theorem State.drew_benchBus (n : Nat) : (s.drew n).benchBus = s.benchBus := rfl
@[simp] theorem State.drew_benchRx (n : Nat) : (s.drew n).benchRx = s.benchRx := rfl
@[simp] theorem State.drew_benchGot (n : Nat) : (s.drew n).benchGot = s.benchGot := rfl

/-! ## `State.deviceSelect` -/

@[simp] theorem State.deviceSelect_trace (b : BitVec 8) : (s.deviceSelect b).trace = s.trace := rfl
@[simp] theorem State.deviceSelect_draws (b : BitVec 8) : (s.deviceSelect b).draws = s.draws := rfl
@[simp] theorem State.deviceSelect_txAnswers (b : BitVec 8) : (s.deviceSelect b).txAnswers = s.txAnswers := rfl
@[simp] theorem State.deviceSelect_rxAnswers (b : BitVec 8) : (s.deviceSelect b).rxAnswers = s.rxAnswers := rfl
@[simp] theorem State.deviceSelect_host (b : BitVec 8) : (s.deviceSelect b).host = s.host := rfl
@[simp] theorem State.deviceSelect_resetIn (b : BitVec 8) : (s.deviceSelect b).resetIn = s.resetIn := rfl
@[simp] theorem State.deviceSelect_par (b : BitVec 8) : (s.deviceSelect b).par = s.par := rfl
@[simp] theorem State.deviceSelect_phase (b : BitVec 8) : (s.deviceSelect b).phase = s.phase := rfl
@[simp] theorem State.deviceSelect_reqOp (b : BitVec 8) : (s.deviceSelect b).reqOp = s.reqOp := rfl
@[simp] theorem State.deviceSelect_reqBus (b : BitVec 8) : (s.deviceSelect b).reqBus = s.reqBus := rfl
@[simp] theorem State.deviceSelect_reqAddr (b : BitVec 8) : (s.deviceSelect b).reqAddr = s.reqAddr := rfl
@[simp] theorem State.deviceSelect_reqLen (b : BitVec 8) : (s.deviceSelect b).reqLen = s.reqLen := rfl
@[simp] theorem State.deviceSelect_reqValue (b : BitVec 8) : (s.deviceSelect b).reqValue = s.reqValue := rfl
@[simp] theorem State.deviceSelect_reqRsv0 (b : BitVec 8) : (s.deviceSelect b).reqRsv0 = s.reqRsv0 := rfl
@[simp] theorem State.deviceSelect_reqRsv1 (b : BitVec 8) : (s.deviceSelect b).reqRsv1 = s.reqRsv1 := rfl
@[simp] theorem State.deviceSelect_src (b : BitVec 8) : (s.deviceSelect b).src = s.src := rfl
@[simp] theorem State.deviceSelect_dst (b : BitVec 8) : (s.deviceSelect b).dst = s.dst := rfl
@[simp] theorem State.deviceSelect_curAddr (b : BitVec 8) : (s.deviceSelect b).curAddr = s.curAddr := rfl
@[simp] theorem State.deviceSelect_curOff (b : BitVec 8) : (s.deviceSelect b).curOff = s.curOff := rfl
@[simp] theorem State.deviceSelect_remLen (b : BitVec 8) : (s.deviceSelect b).remLen = s.remLen := rfl
@[simp] theorem State.deviceSelect_pageRem (b : BitVec 8) : (s.deviceSelect b).pageRem = s.pageRem := rfl
@[simp] theorem State.deviceSelect_chunkLen (b : BitVec 8) : (s.deviceSelect b).chunkLen = s.chunkLen := rfl
@[simp] theorem State.deviceSelect_xferOk (b : BitVec 8) : (s.deviceSelect b).xferOk = s.xferOk := rfl
@[simp] theorem State.deviceSelect_rxByte (b : BitVec 8) : (s.deviceSelect b).rxByte = s.rxByte := rfl
@[simp] theorem State.deviceSelect_stage (b : BitVec 8) : (s.deviceSelect b).stage = s.stage := rfl
@[simp] theorem State.deviceSelect_stageLen (b : BitVec 8) : (s.deviceSelect b).stageLen = s.stageLen := rfl
@[simp] theorem State.deviceSelect_resultStatus (b : BitVec 8) : (s.deviceSelect b).resultStatus = s.resultStatus := rfl
@[simp] theorem State.deviceSelect_resultValue (b : BitVec 8) : (s.deviceSelect b).resultValue = s.resultValue := rfl
@[simp] theorem State.deviceSelect_posted (b : BitVec 8) : (s.deviceSelect b).posted = s.posted := rfl
@[simp] theorem State.deviceSelect_benchBus (b : BitVec 8) : (s.deviceSelect b).benchBus = s.benchBus := rfl
@[simp] theorem State.deviceSelect_benchRx (b : BitVec 8) : (s.deviceSelect b).benchRx = s.benchRx := rfl
@[simp] theorem State.deviceSelect_benchGot (b : BitVec 8) : (s.deviceSelect b).benchGot = s.benchGot := rfl

/-! ## `State.deviceDeselect` -/

@[simp] theorem State.deviceDeselect_trace (b : BitVec 8) : (s.deviceDeselect b).trace = s.trace := rfl
@[simp] theorem State.deviceDeselect_draws (b : BitVec 8) : (s.deviceDeselect b).draws = s.draws + deselectDraws := rfl
@[simp] theorem State.deviceDeselect_txAnswers (b : BitVec 8) : (s.deviceDeselect b).txAnswers = s.txAnswers := rfl
@[simp] theorem State.deviceDeselect_rxAnswers (b : BitVec 8) : (s.deviceDeselect b).rxAnswers = s.rxAnswers := rfl
@[simp] theorem State.deviceDeselect_host (b : BitVec 8) : (s.deviceDeselect b).host = s.host := rfl
@[simp] theorem State.deviceDeselect_resetIn (b : BitVec 8) : (s.deviceDeselect b).resetIn = s.resetIn := rfl
@[simp] theorem State.deviceDeselect_par (b : BitVec 8) : (s.deviceDeselect b).par = s.par := rfl
@[simp] theorem State.deviceDeselect_phase (b : BitVec 8) : (s.deviceDeselect b).phase = s.phase := rfl
@[simp] theorem State.deviceDeselect_reqOp (b : BitVec 8) : (s.deviceDeselect b).reqOp = s.reqOp := rfl
@[simp] theorem State.deviceDeselect_reqBus (b : BitVec 8) : (s.deviceDeselect b).reqBus = s.reqBus := rfl
@[simp] theorem State.deviceDeselect_reqAddr (b : BitVec 8) : (s.deviceDeselect b).reqAddr = s.reqAddr := rfl
@[simp] theorem State.deviceDeselect_reqLen (b : BitVec 8) : (s.deviceDeselect b).reqLen = s.reqLen := rfl
@[simp] theorem State.deviceDeselect_reqValue (b : BitVec 8) : (s.deviceDeselect b).reqValue = s.reqValue := rfl
@[simp] theorem State.deviceDeselect_reqRsv0 (b : BitVec 8) : (s.deviceDeselect b).reqRsv0 = s.reqRsv0 := rfl
@[simp] theorem State.deviceDeselect_reqRsv1 (b : BitVec 8) : (s.deviceDeselect b).reqRsv1 = s.reqRsv1 := rfl
@[simp] theorem State.deviceDeselect_src (b : BitVec 8) : (s.deviceDeselect b).src = s.src := rfl
@[simp] theorem State.deviceDeselect_dst (b : BitVec 8) : (s.deviceDeselect b).dst = s.dst := rfl
@[simp] theorem State.deviceDeselect_curAddr (b : BitVec 8) : (s.deviceDeselect b).curAddr = s.curAddr := rfl
@[simp] theorem State.deviceDeselect_curOff (b : BitVec 8) : (s.deviceDeselect b).curOff = s.curOff := rfl
@[simp] theorem State.deviceDeselect_remLen (b : BitVec 8) : (s.deviceDeselect b).remLen = s.remLen := rfl
@[simp] theorem State.deviceDeselect_pageRem (b : BitVec 8) : (s.deviceDeselect b).pageRem = s.pageRem := rfl
@[simp] theorem State.deviceDeselect_chunkLen (b : BitVec 8) : (s.deviceDeselect b).chunkLen = s.chunkLen := rfl
@[simp] theorem State.deviceDeselect_xferOk (b : BitVec 8) : (s.deviceDeselect b).xferOk = s.xferOk := rfl
@[simp] theorem State.deviceDeselect_rxByte (b : BitVec 8) : (s.deviceDeselect b).rxByte = s.rxByte := rfl
@[simp] theorem State.deviceDeselect_stage (b : BitVec 8) : (s.deviceDeselect b).stage = s.stage := rfl
@[simp] theorem State.deviceDeselect_stageLen (b : BitVec 8) : (s.deviceDeselect b).stageLen = s.stageLen := rfl
@[simp] theorem State.deviceDeselect_resultStatus (b : BitVec 8) : (s.deviceDeselect b).resultStatus = s.resultStatus := rfl
@[simp] theorem State.deviceDeselect_resultValue (b : BitVec 8) : (s.deviceDeselect b).resultValue = s.resultValue := rfl
@[simp] theorem State.deviceDeselect_posted (b : BitVec 8) : (s.deviceDeselect b).posted = s.posted := rfl
@[simp] theorem State.deviceDeselect_benchBus (b : BitVec 8) : (s.deviceDeselect b).benchBus = s.benchBus := rfl
@[simp] theorem State.deviceDeselect_benchRx (b : BitVec 8) : (s.deviceDeselect b).benchRx = s.benchRx := rfl
@[simp] theorem State.deviceDeselect_benchGot (b : BitVec 8) : (s.deviceDeselect b).benchGot = s.benchGot := rfl

/-! ## `State.deviceTx` -/

@[simp] theorem State.deviceTx_trace (b : BitVec 8) (xs : List (BitVec 8)) : (s.deviceTx b xs).trace = s.trace := rfl
@[simp] theorem State.deviceTx_txAnswers (b : BitVec 8) (xs : List (BitVec 8)) : (s.deviceTx b xs).txAnswers = s.txAnswers.tail := rfl
@[simp] theorem State.deviceTx_rxAnswers (b : BitVec 8) (xs : List (BitVec 8)) : (s.deviceTx b xs).rxAnswers = s.rxAnswers := rfl
@[simp] theorem State.deviceTx_host (b : BitVec 8) (xs : List (BitVec 8)) : (s.deviceTx b xs).host = s.host := rfl
@[simp] theorem State.deviceTx_resetIn (b : BitVec 8) (xs : List (BitVec 8)) : (s.deviceTx b xs).resetIn = s.resetIn := rfl
@[simp] theorem State.deviceTx_par (b : BitVec 8) (xs : List (BitVec 8)) : (s.deviceTx b xs).par = s.par := rfl
@[simp] theorem State.deviceTx_phase (b : BitVec 8) (xs : List (BitVec 8)) : (s.deviceTx b xs).phase = s.phase := rfl
@[simp] theorem State.deviceTx_reqOp (b : BitVec 8) (xs : List (BitVec 8)) : (s.deviceTx b xs).reqOp = s.reqOp := rfl
@[simp] theorem State.deviceTx_reqBus (b : BitVec 8) (xs : List (BitVec 8)) : (s.deviceTx b xs).reqBus = s.reqBus := rfl
@[simp] theorem State.deviceTx_reqAddr (b : BitVec 8) (xs : List (BitVec 8)) : (s.deviceTx b xs).reqAddr = s.reqAddr := rfl
@[simp] theorem State.deviceTx_reqLen (b : BitVec 8) (xs : List (BitVec 8)) : (s.deviceTx b xs).reqLen = s.reqLen := rfl
@[simp] theorem State.deviceTx_reqValue (b : BitVec 8) (xs : List (BitVec 8)) : (s.deviceTx b xs).reqValue = s.reqValue := rfl
@[simp] theorem State.deviceTx_reqRsv0 (b : BitVec 8) (xs : List (BitVec 8)) : (s.deviceTx b xs).reqRsv0 = s.reqRsv0 := rfl
@[simp] theorem State.deviceTx_reqRsv1 (b : BitVec 8) (xs : List (BitVec 8)) : (s.deviceTx b xs).reqRsv1 = s.reqRsv1 := rfl
@[simp] theorem State.deviceTx_src (b : BitVec 8) (xs : List (BitVec 8)) : (s.deviceTx b xs).src = s.src := rfl
@[simp] theorem State.deviceTx_dst (b : BitVec 8) (xs : List (BitVec 8)) : (s.deviceTx b xs).dst = s.dst := rfl
@[simp] theorem State.deviceTx_curAddr (b : BitVec 8) (xs : List (BitVec 8)) : (s.deviceTx b xs).curAddr = s.curAddr := rfl
@[simp] theorem State.deviceTx_curOff (b : BitVec 8) (xs : List (BitVec 8)) : (s.deviceTx b xs).curOff = s.curOff := rfl
@[simp] theorem State.deviceTx_remLen (b : BitVec 8) (xs : List (BitVec 8)) : (s.deviceTx b xs).remLen = s.remLen := rfl
@[simp] theorem State.deviceTx_pageRem (b : BitVec 8) (xs : List (BitVec 8)) : (s.deviceTx b xs).pageRem = s.pageRem := rfl
@[simp] theorem State.deviceTx_chunkLen (b : BitVec 8) (xs : List (BitVec 8)) : (s.deviceTx b xs).chunkLen = s.chunkLen := rfl
@[simp] theorem State.deviceTx_xferOk (b : BitVec 8) (xs : List (BitVec 8)) : (s.deviceTx b xs).xferOk = s.xferOk := rfl
@[simp] theorem State.deviceTx_rxByte (b : BitVec 8) (xs : List (BitVec 8)) : (s.deviceTx b xs).rxByte = s.rxByte := rfl
@[simp] theorem State.deviceTx_stage (b : BitVec 8) (xs : List (BitVec 8)) : (s.deviceTx b xs).stage = s.stage := rfl
@[simp] theorem State.deviceTx_stageLen (b : BitVec 8) (xs : List (BitVec 8)) : (s.deviceTx b xs).stageLen = s.stageLen := rfl
@[simp] theorem State.deviceTx_resultStatus (b : BitVec 8) (xs : List (BitVec 8)) : (s.deviceTx b xs).resultStatus = s.resultStatus := rfl
@[simp] theorem State.deviceTx_resultValue (b : BitVec 8) (xs : List (BitVec 8)) : (s.deviceTx b xs).resultValue = s.resultValue := rfl
@[simp] theorem State.deviceTx_posted (b : BitVec 8) (xs : List (BitVec 8)) : (s.deviceTx b xs).posted = s.posted := rfl
@[simp] theorem State.deviceTx_benchBus (b : BitVec 8) (xs : List (BitVec 8)) : (s.deviceTx b xs).benchBus = s.benchBus := rfl
@[simp] theorem State.deviceTx_benchRx (b : BitVec 8) (xs : List (BitVec 8)) : (s.deviceTx b xs).benchRx = s.benchRx := rfl
@[simp] theorem State.deviceTx_benchGot (b : BitVec 8) (xs : List (BitVec 8)) : (s.deviceTx b xs).benchGot = s.benchGot := rfl

/-! ## `State.deviceRx` -/

@[simp] theorem State.deviceRx_trace (b : BitVec 8) (n : Nat) : (s.deviceRx b n).trace = s.trace := rfl
@[simp] theorem State.deviceRx_txAnswers (b : BitVec 8) (n : Nat) : (s.deviceRx b n).txAnswers = s.txAnswers := rfl
@[simp] theorem State.deviceRx_rxAnswers (b : BitVec 8) (n : Nat) : (s.deviceRx b n).rxAnswers = s.rxAnswers.tail := rfl
@[simp] theorem State.deviceRx_host (b : BitVec 8) (n : Nat) : (s.deviceRx b n).host = s.host := rfl
@[simp] theorem State.deviceRx_resetIn (b : BitVec 8) (n : Nat) : (s.deviceRx b n).resetIn = s.resetIn := rfl
@[simp] theorem State.deviceRx_par (b : BitVec 8) (n : Nat) : (s.deviceRx b n).par = s.par := rfl
@[simp] theorem State.deviceRx_phase (b : BitVec 8) (n : Nat) : (s.deviceRx b n).phase = s.phase := rfl
@[simp] theorem State.deviceRx_reqOp (b : BitVec 8) (n : Nat) : (s.deviceRx b n).reqOp = s.reqOp := rfl
@[simp] theorem State.deviceRx_reqBus (b : BitVec 8) (n : Nat) : (s.deviceRx b n).reqBus = s.reqBus := rfl
@[simp] theorem State.deviceRx_reqAddr (b : BitVec 8) (n : Nat) : (s.deviceRx b n).reqAddr = s.reqAddr := rfl
@[simp] theorem State.deviceRx_reqLen (b : BitVec 8) (n : Nat) : (s.deviceRx b n).reqLen = s.reqLen := rfl
@[simp] theorem State.deviceRx_reqValue (b : BitVec 8) (n : Nat) : (s.deviceRx b n).reqValue = s.reqValue := rfl
@[simp] theorem State.deviceRx_reqRsv0 (b : BitVec 8) (n : Nat) : (s.deviceRx b n).reqRsv0 = s.reqRsv0 := rfl
@[simp] theorem State.deviceRx_reqRsv1 (b : BitVec 8) (n : Nat) : (s.deviceRx b n).reqRsv1 = s.reqRsv1 := rfl
@[simp] theorem State.deviceRx_src (b : BitVec 8) (n : Nat) : (s.deviceRx b n).src = s.src := rfl
@[simp] theorem State.deviceRx_dst (b : BitVec 8) (n : Nat) : (s.deviceRx b n).dst = s.dst := rfl
@[simp] theorem State.deviceRx_curAddr (b : BitVec 8) (n : Nat) : (s.deviceRx b n).curAddr = s.curAddr := rfl
@[simp] theorem State.deviceRx_curOff (b : BitVec 8) (n : Nat) : (s.deviceRx b n).curOff = s.curOff := rfl
@[simp] theorem State.deviceRx_remLen (b : BitVec 8) (n : Nat) : (s.deviceRx b n).remLen = s.remLen := rfl
@[simp] theorem State.deviceRx_pageRem (b : BitVec 8) (n : Nat) : (s.deviceRx b n).pageRem = s.pageRem := rfl
@[simp] theorem State.deviceRx_chunkLen (b : BitVec 8) (n : Nat) : (s.deviceRx b n).chunkLen = s.chunkLen := rfl
@[simp] theorem State.deviceRx_xferOk (b : BitVec 8) (n : Nat) : (s.deviceRx b n).xferOk = s.xferOk := rfl
@[simp] theorem State.deviceRx_rxByte (b : BitVec 8) (n : Nat) : (s.deviceRx b n).rxByte = s.rxByte := rfl
@[simp] theorem State.deviceRx_stage (b : BitVec 8) (n : Nat) : (s.deviceRx b n).stage = s.stage := rfl
@[simp] theorem State.deviceRx_stageLen (b : BitVec 8) (n : Nat) : (s.deviceRx b n).stageLen = s.stageLen := rfl
@[simp] theorem State.deviceRx_resultStatus (b : BitVec 8) (n : Nat) : (s.deviceRx b n).resultStatus = s.resultStatus := rfl
@[simp] theorem State.deviceRx_resultValue (b : BitVec 8) (n : Nat) : (s.deviceRx b n).resultValue = s.resultValue := rfl
@[simp] theorem State.deviceRx_posted (b : BitVec 8) (n : Nat) : (s.deviceRx b n).posted = s.posted := rfl
@[simp] theorem State.deviceRx_benchBus (b : BitVec 8) (n : Nat) : (s.deviceRx b n).benchBus = s.benchBus := rfl
@[simp] theorem State.deviceRx_benchRx (b : BitVec 8) (n : Nat) : (s.deviceRx b n).benchRx = s.benchRx := rfl
@[simp] theorem State.deviceRx_benchGot (b : BitVec 8) (n : Nat) : (s.deviceRx b n).benchGot = s.benchGot := rfl

/-! ## `State.passTime` -/

@[simp] theorem State.passTime_trace (ms : Nat) : (s.passTime ms).trace = s.trace := rfl
@[simp] theorem State.passTime_draws (ms : Nat) : (s.passTime ms).draws = s.draws := rfl
@[simp] theorem State.passTime_txAnswers (ms : Nat) : (s.passTime ms).txAnswers = s.txAnswers := rfl
@[simp] theorem State.passTime_rxAnswers (ms : Nat) : (s.passTime ms).rxAnswers = s.rxAnswers := rfl
@[simp] theorem State.passTime_host (ms : Nat) : (s.passTime ms).host = s.host := rfl
@[simp] theorem State.passTime_resetIn (ms : Nat) : (s.passTime ms).resetIn = s.resetIn := rfl
@[simp] theorem State.passTime_par (ms : Nat) : (s.passTime ms).par = s.par := rfl
@[simp] theorem State.passTime_phase (ms : Nat) : (s.passTime ms).phase = s.phase := rfl
@[simp] theorem State.passTime_reqOp (ms : Nat) : (s.passTime ms).reqOp = s.reqOp := rfl
@[simp] theorem State.passTime_reqBus (ms : Nat) : (s.passTime ms).reqBus = s.reqBus := rfl
@[simp] theorem State.passTime_reqAddr (ms : Nat) : (s.passTime ms).reqAddr = s.reqAddr := rfl
@[simp] theorem State.passTime_reqLen (ms : Nat) : (s.passTime ms).reqLen = s.reqLen := rfl
@[simp] theorem State.passTime_reqValue (ms : Nat) : (s.passTime ms).reqValue = s.reqValue := rfl
@[simp] theorem State.passTime_reqRsv0 (ms : Nat) : (s.passTime ms).reqRsv0 = s.reqRsv0 := rfl
@[simp] theorem State.passTime_reqRsv1 (ms : Nat) : (s.passTime ms).reqRsv1 = s.reqRsv1 := rfl
@[simp] theorem State.passTime_src (ms : Nat) : (s.passTime ms).src = s.src := rfl
@[simp] theorem State.passTime_dst (ms : Nat) : (s.passTime ms).dst = s.dst := rfl
@[simp] theorem State.passTime_curAddr (ms : Nat) : (s.passTime ms).curAddr = s.curAddr := rfl
@[simp] theorem State.passTime_curOff (ms : Nat) : (s.passTime ms).curOff = s.curOff := rfl
@[simp] theorem State.passTime_remLen (ms : Nat) : (s.passTime ms).remLen = s.remLen := rfl
@[simp] theorem State.passTime_pageRem (ms : Nat) : (s.passTime ms).pageRem = s.pageRem := rfl
@[simp] theorem State.passTime_chunkLen (ms : Nat) : (s.passTime ms).chunkLen = s.chunkLen := rfl
@[simp] theorem State.passTime_xferOk (ms : Nat) : (s.passTime ms).xferOk = s.xferOk := rfl
@[simp] theorem State.passTime_rxByte (ms : Nat) : (s.passTime ms).rxByte = s.rxByte := rfl
@[simp] theorem State.passTime_stage (ms : Nat) : (s.passTime ms).stage = s.stage := rfl
@[simp] theorem State.passTime_stageLen (ms : Nat) : (s.passTime ms).stageLen = s.stageLen := rfl
@[simp] theorem State.passTime_resultStatus (ms : Nat) : (s.passTime ms).resultStatus = s.resultStatus := rfl
@[simp] theorem State.passTime_resultValue (ms : Nat) : (s.passTime ms).resultValue = s.resultValue := rfl
@[simp] theorem State.passTime_posted (ms : Nat) : (s.passTime ms).posted = s.posted := rfl
@[simp] theorem State.passTime_benchBus (ms : Nat) : (s.passTime ms).benchBus = s.benchBus := rfl
@[simp] theorem State.passTime_benchRx (ms : Nat) : (s.passTime ms).benchRx = s.benchRx := rfl
@[simp] theorem State.passTime_benchGot (ms : Nat) : (s.passTime ms).benchGot = s.benchGot := rfl

/-! ## `State.select` -/

@[simp] theorem State.select_trace : (s.select).trace = s.trace ++ [.select s.reqBus] := rfl
@[simp] theorem State.select_draws : (s.select).draws = s.draws := rfl
@[simp] theorem State.select_txAnswers : (s.select).txAnswers = s.txAnswers := rfl
@[simp] theorem State.select_rxAnswers : (s.select).rxAnswers = s.rxAnswers := rfl
@[simp] theorem State.select_host : (s.select).host = s.host := rfl
@[simp] theorem State.select_resetIn : (s.select).resetIn = s.resetIn := rfl
@[simp] theorem State.select_par : (s.select).par = s.par := rfl
@[simp] theorem State.select_phase : (s.select).phase = s.phase := rfl
@[simp] theorem State.select_reqOp : (s.select).reqOp = s.reqOp := rfl
@[simp] theorem State.select_reqBus : (s.select).reqBus = s.reqBus := rfl
@[simp] theorem State.select_reqAddr : (s.select).reqAddr = s.reqAddr := rfl
@[simp] theorem State.select_reqLen : (s.select).reqLen = s.reqLen := rfl
@[simp] theorem State.select_reqValue : (s.select).reqValue = s.reqValue := rfl
@[simp] theorem State.select_reqRsv0 : (s.select).reqRsv0 = s.reqRsv0 := rfl
@[simp] theorem State.select_reqRsv1 : (s.select).reqRsv1 = s.reqRsv1 := rfl
@[simp] theorem State.select_src : (s.select).src = s.src := rfl
@[simp] theorem State.select_dst : (s.select).dst = s.dst := rfl
@[simp] theorem State.select_curAddr : (s.select).curAddr = s.curAddr := rfl
@[simp] theorem State.select_curOff : (s.select).curOff = s.curOff := rfl
@[simp] theorem State.select_remLen : (s.select).remLen = s.remLen := rfl
@[simp] theorem State.select_pageRem : (s.select).pageRem = s.pageRem := rfl
@[simp] theorem State.select_chunkLen : (s.select).chunkLen = s.chunkLen := rfl
@[simp] theorem State.select_xferOk : (s.select).xferOk = s.xferOk := rfl
@[simp] theorem State.select_rxByte : (s.select).rxByte = s.rxByte := rfl
@[simp] theorem State.select_stage : (s.select).stage = s.stage := rfl
@[simp] theorem State.select_stageLen : (s.select).stageLen = s.stageLen := rfl
@[simp] theorem State.select_resultStatus : (s.select).resultStatus = s.resultStatus := rfl
@[simp] theorem State.select_resultValue : (s.select).resultValue = s.resultValue := rfl
@[simp] theorem State.select_posted : (s.select).posted = s.posted := rfl
@[simp] theorem State.select_benchBus : (s.select).benchBus = s.benchBus := rfl
@[simp] theorem State.select_benchRx : (s.select).benchRx = s.benchRx := rfl
@[simp] theorem State.select_benchGot : (s.select).benchGot = s.benchGot := rfl

/-! ## `State.deselect` -/

@[simp] theorem State.deselect_trace : (s.deselect).trace = s.trace ++ [.deselect s.reqBus] := rfl
@[simp] theorem State.deselect_draws : (s.deselect).draws = s.draws + deselectDraws := rfl
@[simp] theorem State.deselect_txAnswers : (s.deselect).txAnswers = s.txAnswers := rfl
@[simp] theorem State.deselect_rxAnswers : (s.deselect).rxAnswers = s.rxAnswers := rfl
@[simp] theorem State.deselect_host : (s.deselect).host = s.host := rfl
@[simp] theorem State.deselect_resetIn : (s.deselect).resetIn = s.resetIn := rfl
@[simp] theorem State.deselect_par : (s.deselect).par = s.par := rfl
@[simp] theorem State.deselect_phase : (s.deselect).phase = s.phase := rfl
@[simp] theorem State.deselect_reqOp : (s.deselect).reqOp = s.reqOp := rfl
@[simp] theorem State.deselect_reqBus : (s.deselect).reqBus = s.reqBus := rfl
@[simp] theorem State.deselect_reqAddr : (s.deselect).reqAddr = s.reqAddr := rfl
@[simp] theorem State.deselect_reqLen : (s.deselect).reqLen = s.reqLen := rfl
@[simp] theorem State.deselect_reqValue : (s.deselect).reqValue = s.reqValue := rfl
@[simp] theorem State.deselect_reqRsv0 : (s.deselect).reqRsv0 = s.reqRsv0 := rfl
@[simp] theorem State.deselect_reqRsv1 : (s.deselect).reqRsv1 = s.reqRsv1 := rfl
@[simp] theorem State.deselect_src : (s.deselect).src = s.src := rfl
@[simp] theorem State.deselect_dst : (s.deselect).dst = s.dst := rfl
@[simp] theorem State.deselect_curAddr : (s.deselect).curAddr = s.curAddr := rfl
@[simp] theorem State.deselect_curOff : (s.deselect).curOff = s.curOff := rfl
@[simp] theorem State.deselect_remLen : (s.deselect).remLen = s.remLen := rfl
@[simp] theorem State.deselect_pageRem : (s.deselect).pageRem = s.pageRem := rfl
@[simp] theorem State.deselect_chunkLen : (s.deselect).chunkLen = s.chunkLen := rfl
@[simp] theorem State.deselect_xferOk : (s.deselect).xferOk = s.xferOk := rfl
@[simp] theorem State.deselect_rxByte : (s.deselect).rxByte = s.rxByte := rfl
@[simp] theorem State.deselect_stage : (s.deselect).stage = s.stage := rfl
@[simp] theorem State.deselect_stageLen : (s.deselect).stageLen = s.stageLen := rfl
@[simp] theorem State.deselect_resultStatus : (s.deselect).resultStatus = s.resultStatus := rfl
@[simp] theorem State.deselect_resultValue : (s.deselect).resultValue = s.resultValue := rfl
@[simp] theorem State.deselect_posted : (s.deselect).posted = s.posted := rfl
@[simp] theorem State.deselect_benchBus : (s.deselect).benchBus = s.benchBus := rfl
@[simp] theorem State.deselect_benchRx : (s.deselect).benchRx = s.benchRx := rfl
@[simp] theorem State.deselect_benchGot : (s.deselect).benchGot = s.benchGot := rfl

/-! ## `State.transmit` -/

@[simp] theorem State.transmit_trace : (s.transmit).trace = s.trace ++ [.tx s.reqBus s.staged s.nextTx] := rfl
@[simp] theorem State.transmit_txAnswers : (s.transmit).txAnswers = s.txAnswers.tail := rfl
@[simp] theorem State.transmit_rxAnswers : (s.transmit).rxAnswers = s.rxAnswers := rfl
@[simp] theorem State.transmit_host : (s.transmit).host = s.host := rfl
@[simp] theorem State.transmit_resetIn : (s.transmit).resetIn = s.resetIn := rfl
@[simp] theorem State.transmit_par : (s.transmit).par = s.par := rfl
@[simp] theorem State.transmit_phase : (s.transmit).phase = s.phase := rfl
@[simp] theorem State.transmit_reqOp : (s.transmit).reqOp = s.reqOp := rfl
@[simp] theorem State.transmit_reqBus : (s.transmit).reqBus = s.reqBus := rfl
@[simp] theorem State.transmit_reqAddr : (s.transmit).reqAddr = s.reqAddr := rfl
@[simp] theorem State.transmit_reqLen : (s.transmit).reqLen = s.reqLen := rfl
@[simp] theorem State.transmit_reqValue : (s.transmit).reqValue = s.reqValue := rfl
@[simp] theorem State.transmit_reqRsv0 : (s.transmit).reqRsv0 = s.reqRsv0 := rfl
@[simp] theorem State.transmit_reqRsv1 : (s.transmit).reqRsv1 = s.reqRsv1 := rfl
@[simp] theorem State.transmit_src : (s.transmit).src = s.src := rfl
@[simp] theorem State.transmit_dst : (s.transmit).dst = s.dst := rfl
@[simp] theorem State.transmit_curAddr : (s.transmit).curAddr = s.curAddr := rfl
@[simp] theorem State.transmit_curOff : (s.transmit).curOff = s.curOff := rfl
@[simp] theorem State.transmit_remLen : (s.transmit).remLen = s.remLen := rfl
@[simp] theorem State.transmit_pageRem : (s.transmit).pageRem = s.pageRem := rfl
@[simp] theorem State.transmit_chunkLen : (s.transmit).chunkLen = s.chunkLen := rfl
@[simp] theorem State.transmit_xferOk : (s.transmit).xferOk = s.xferOk := rfl
@[simp] theorem State.transmit_rxByte : (s.transmit).rxByte = s.rxByte := rfl
@[simp] theorem State.transmit_stage : (s.transmit).stage = s.stage := rfl
@[simp] theorem State.transmit_stageLen : (s.transmit).stageLen = s.stageLen := rfl
@[simp] theorem State.transmit_resultStatus : (s.transmit).resultStatus = s.resultStatus := rfl
@[simp] theorem State.transmit_resultValue : (s.transmit).resultValue = s.resultValue := rfl
@[simp] theorem State.transmit_posted : (s.transmit).posted = s.posted := rfl
@[simp] theorem State.transmit_benchBus : (s.transmit).benchBus = s.benchBus := rfl
@[simp] theorem State.transmit_benchRx : (s.transmit).benchRx = s.benchRx := rfl
@[simp] theorem State.transmit_benchGot : (s.transmit).benchGot = s.benchGot := rfl

/-! ## `State.receive` -/

@[simp] theorem State.receive_trace (n : Nat) : (s.receive n).trace = s.trace ++ [.rx s.reqBus n (s.rxBytes s.reqBus n)] := rfl
@[simp] theorem State.receive_txAnswers (n : Nat) : (s.receive n).txAnswers = s.txAnswers := rfl
@[simp] theorem State.receive_rxAnswers (n : Nat) : (s.receive n).rxAnswers = s.rxAnswers.tail := rfl
@[simp] theorem State.receive_host (n : Nat) : (s.receive n).host = s.host := rfl
@[simp] theorem State.receive_resetIn (n : Nat) : (s.receive n).resetIn = s.resetIn := rfl
@[simp] theorem State.receive_par (n : Nat) : (s.receive n).par = s.par := rfl
@[simp] theorem State.receive_phase (n : Nat) : (s.receive n).phase = s.phase := rfl
@[simp] theorem State.receive_reqOp (n : Nat) : (s.receive n).reqOp = s.reqOp := rfl
@[simp] theorem State.receive_reqBus (n : Nat) : (s.receive n).reqBus = s.reqBus := rfl
@[simp] theorem State.receive_reqAddr (n : Nat) : (s.receive n).reqAddr = s.reqAddr := rfl
@[simp] theorem State.receive_reqLen (n : Nat) : (s.receive n).reqLen = s.reqLen := rfl
@[simp] theorem State.receive_reqValue (n : Nat) : (s.receive n).reqValue = s.reqValue := rfl
@[simp] theorem State.receive_reqRsv0 (n : Nat) : (s.receive n).reqRsv0 = s.reqRsv0 := rfl
@[simp] theorem State.receive_reqRsv1 (n : Nat) : (s.receive n).reqRsv1 = s.reqRsv1 := rfl
@[simp] theorem State.receive_src (n : Nat) : (s.receive n).src = s.src := rfl
@[simp] theorem State.receive_dst (n : Nat) : (s.receive n).dst = s.dst := rfl
@[simp] theorem State.receive_curAddr (n : Nat) : (s.receive n).curAddr = s.curAddr := rfl
@[simp] theorem State.receive_curOff (n : Nat) : (s.receive n).curOff = s.curOff := rfl
@[simp] theorem State.receive_remLen (n : Nat) : (s.receive n).remLen = s.remLen := rfl
@[simp] theorem State.receive_pageRem (n : Nat) : (s.receive n).pageRem = s.pageRem := rfl
@[simp] theorem State.receive_chunkLen (n : Nat) : (s.receive n).chunkLen = s.chunkLen := rfl
@[simp] theorem State.receive_xferOk (n : Nat) : (s.receive n).xferOk = s.xferOk := rfl
@[simp] theorem State.receive_rxByte (n : Nat) : (s.receive n).rxByte = s.rxByte := rfl
@[simp] theorem State.receive_stage (n : Nat) : (s.receive n).stage = s.stage := rfl
@[simp] theorem State.receive_stageLen (n : Nat) : (s.receive n).stageLen = s.stageLen := rfl
@[simp] theorem State.receive_resultStatus (n : Nat) : (s.receive n).resultStatus = s.resultStatus := rfl
@[simp] theorem State.receive_resultValue (n : Nat) : (s.receive n).resultValue = s.resultValue := rfl
@[simp] theorem State.receive_posted (n : Nat) : (s.receive n).posted = s.posted := rfl
@[simp] theorem State.receive_benchBus (n : Nat) : (s.receive n).benchBus = s.benchBus := rfl
@[simp] theorem State.receive_benchRx (n : Nat) : (s.receive n).benchRx = s.benchRx := rfl
@[simp] theorem State.receive_benchGot (n : Nat) : (s.receive n).benchGot = s.benchGot := rfl

/-! ## `State.delay` -/

@[simp] theorem State.delay_trace (ms : Nat) : (s.delay ms).trace = s.trace ++ [.delay ms] := rfl
@[simp] theorem State.delay_draws (ms : Nat) : (s.delay ms).draws = s.draws := rfl
@[simp] theorem State.delay_txAnswers (ms : Nat) : (s.delay ms).txAnswers = s.txAnswers := rfl
@[simp] theorem State.delay_rxAnswers (ms : Nat) : (s.delay ms).rxAnswers = s.rxAnswers := rfl
@[simp] theorem State.delay_host (ms : Nat) : (s.delay ms).host = s.host := rfl
@[simp] theorem State.delay_resetIn (ms : Nat) : (s.delay ms).resetIn = s.resetIn := rfl
@[simp] theorem State.delay_par (ms : Nat) : (s.delay ms).par = s.par := rfl
@[simp] theorem State.delay_phase (ms : Nat) : (s.delay ms).phase = s.phase := rfl
@[simp] theorem State.delay_reqOp (ms : Nat) : (s.delay ms).reqOp = s.reqOp := rfl
@[simp] theorem State.delay_reqBus (ms : Nat) : (s.delay ms).reqBus = s.reqBus := rfl
@[simp] theorem State.delay_reqAddr (ms : Nat) : (s.delay ms).reqAddr = s.reqAddr := rfl
@[simp] theorem State.delay_reqLen (ms : Nat) : (s.delay ms).reqLen = s.reqLen := rfl
@[simp] theorem State.delay_reqValue (ms : Nat) : (s.delay ms).reqValue = s.reqValue := rfl
@[simp] theorem State.delay_reqRsv0 (ms : Nat) : (s.delay ms).reqRsv0 = s.reqRsv0 := rfl
@[simp] theorem State.delay_reqRsv1 (ms : Nat) : (s.delay ms).reqRsv1 = s.reqRsv1 := rfl
@[simp] theorem State.delay_src (ms : Nat) : (s.delay ms).src = s.src := rfl
@[simp] theorem State.delay_dst (ms : Nat) : (s.delay ms).dst = s.dst := rfl
@[simp] theorem State.delay_curAddr (ms : Nat) : (s.delay ms).curAddr = s.curAddr := rfl
@[simp] theorem State.delay_curOff (ms : Nat) : (s.delay ms).curOff = s.curOff := rfl
@[simp] theorem State.delay_remLen (ms : Nat) : (s.delay ms).remLen = s.remLen := rfl
@[simp] theorem State.delay_pageRem (ms : Nat) : (s.delay ms).pageRem = s.pageRem := rfl
@[simp] theorem State.delay_chunkLen (ms : Nat) : (s.delay ms).chunkLen = s.chunkLen := rfl
@[simp] theorem State.delay_xferOk (ms : Nat) : (s.delay ms).xferOk = s.xferOk := rfl
@[simp] theorem State.delay_rxByte (ms : Nat) : (s.delay ms).rxByte = s.rxByte := rfl
@[simp] theorem State.delay_stage (ms : Nat) : (s.delay ms).stage = s.stage := rfl
@[simp] theorem State.delay_stageLen (ms : Nat) : (s.delay ms).stageLen = s.stageLen := rfl
@[simp] theorem State.delay_resultStatus (ms : Nat) : (s.delay ms).resultStatus = s.resultStatus := rfl
@[simp] theorem State.delay_resultValue (ms : Nat) : (s.delay ms).resultValue = s.resultValue := rfl
@[simp] theorem State.delay_posted (ms : Nat) : (s.delay ms).posted = s.posted := rfl
@[simp] theorem State.delay_benchBus (ms : Nat) : (s.delay ms).benchBus = s.benchBus := rfl
@[simp] theorem State.delay_benchRx (ms : Nat) : (s.delay ms).benchRx = s.benchRx := rfl
@[simp] theorem State.delay_benchGot (ms : Nat) : (s.delay ms).benchGot = s.benchGot := rfl

/-! ## `State.finish` -/

@[simp] theorem State.finish_buses (st : Status) (v : BitVec 8) : (s.finish st v).buses = s.buses := rfl
@[simp] theorem State.finish_trace (st : Status) (v : BitVec 8) : (s.finish st v).trace = s.trace := rfl
@[simp] theorem State.finish_draws (st : Status) (v : BitVec 8) : (s.finish st v).draws = s.draws := rfl
@[simp] theorem State.finish_txAnswers (st : Status) (v : BitVec 8) : (s.finish st v).txAnswers = s.txAnswers := rfl
@[simp] theorem State.finish_rxAnswers (st : Status) (v : BitVec 8) : (s.finish st v).rxAnswers = s.rxAnswers := rfl
@[simp] theorem State.finish_host (st : Status) (v : BitVec 8) : (s.finish st v).host = s.host := rfl
@[simp] theorem State.finish_resetIn (st : Status) (v : BitVec 8) : (s.finish st v).resetIn = s.resetIn := rfl
@[simp] theorem State.finish_par (st : Status) (v : BitVec 8) : (s.finish st v).par = s.par := rfl
@[simp] theorem State.finish_phase (st : Status) (v : BitVec 8) : (s.finish st v).phase = .idle := rfl
@[simp] theorem State.finish_reqOp (st : Status) (v : BitVec 8) : (s.finish st v).reqOp = s.reqOp := rfl
@[simp] theorem State.finish_reqBus (st : Status) (v : BitVec 8) : (s.finish st v).reqBus = s.reqBus := rfl
@[simp] theorem State.finish_reqAddr (st : Status) (v : BitVec 8) : (s.finish st v).reqAddr = s.reqAddr := rfl
@[simp] theorem State.finish_reqLen (st : Status) (v : BitVec 8) : (s.finish st v).reqLen = s.reqLen := rfl
@[simp] theorem State.finish_reqValue (st : Status) (v : BitVec 8) : (s.finish st v).reqValue = s.reqValue := rfl
@[simp] theorem State.finish_reqRsv0 (st : Status) (v : BitVec 8) : (s.finish st v).reqRsv0 = s.reqRsv0 := rfl
@[simp] theorem State.finish_reqRsv1 (st : Status) (v : BitVec 8) : (s.finish st v).reqRsv1 = s.reqRsv1 := rfl
@[simp] theorem State.finish_src (st : Status) (v : BitVec 8) : (s.finish st v).src = s.src := rfl
@[simp] theorem State.finish_dst (st : Status) (v : BitVec 8) : (s.finish st v).dst = s.dst := rfl
@[simp] theorem State.finish_curAddr (st : Status) (v : BitVec 8) : (s.finish st v).curAddr = s.curAddr := rfl
@[simp] theorem State.finish_curOff (st : Status) (v : BitVec 8) : (s.finish st v).curOff = s.curOff := rfl
@[simp] theorem State.finish_remLen (st : Status) (v : BitVec 8) : (s.finish st v).remLen = s.remLen := rfl
@[simp] theorem State.finish_pageRem (st : Status) (v : BitVec 8) : (s.finish st v).pageRem = s.pageRem := rfl
@[simp] theorem State.finish_chunkLen (st : Status) (v : BitVec 8) : (s.finish st v).chunkLen = s.chunkLen := rfl
@[simp] theorem State.finish_xferOk (st : Status) (v : BitVec 8) : (s.finish st v).xferOk = s.xferOk := rfl
@[simp] theorem State.finish_rxByte (st : Status) (v : BitVec 8) : (s.finish st v).rxByte = s.rxByte := rfl
@[simp] theorem State.finish_stage (st : Status) (v : BitVec 8) : (s.finish st v).stage = s.stage := rfl
@[simp] theorem State.finish_stageLen (st : Status) (v : BitVec 8) : (s.finish st v).stageLen = s.stageLen := rfl
@[simp] theorem State.finish_resultStatus (st : Status) (v : BitVec 8) : (s.finish st v).resultStatus = st.code := rfl
@[simp] theorem State.finish_resultValue (st : Status) (v : BitVec 8) : (s.finish st v).resultValue = v := rfl
@[simp] theorem State.finish_posted (st : Status) (v : BitVec 8) : (s.finish st v).posted = s.posted + 1 := rfl
@[simp] theorem State.finish_benchBus (st : Status) (v : BitVec 8) : (s.finish st v).benchBus = s.benchBus := rfl
@[simp] theorem State.finish_benchRx (st : Status) (v : BitVec 8) : (s.finish st v).benchRx = s.benchRx := rfl
@[simp] theorem State.finish_benchGot (st : Status) (v : BitVec 8) : (s.finish st v).benchGot = s.benchGot := rfl

/-! ## `State.raise` -/

@[simp] theorem State.raise_buses (st : Status) : (s.raise st).buses = s.buses := rfl
@[simp] theorem State.raise_trace (st : Status) : (s.raise st).trace = s.trace := rfl
@[simp] theorem State.raise_draws (st : Status) : (s.raise st).draws = s.draws := rfl
@[simp] theorem State.raise_txAnswers (st : Status) : (s.raise st).txAnswers = s.txAnswers := rfl
@[simp] theorem State.raise_rxAnswers (st : Status) : (s.raise st).rxAnswers = s.rxAnswers := rfl
@[simp] theorem State.raise_host (st : Status) : (s.raise st).host = s.host := rfl
@[simp] theorem State.raise_resetIn (st : Status) : (s.raise st).resetIn = s.resetIn := rfl
@[simp] theorem State.raise_par (st : Status) : (s.raise st).par = s.par := rfl
@[simp] theorem State.raise_phase (st : Status) : (s.raise st).phase = .idle := rfl
@[simp] theorem State.raise_reqOp (st : Status) : (s.raise st).reqOp = s.reqOp := rfl
@[simp] theorem State.raise_reqBus (st : Status) : (s.raise st).reqBus = s.reqBus := rfl
@[simp] theorem State.raise_reqAddr (st : Status) : (s.raise st).reqAddr = s.reqAddr := rfl
@[simp] theorem State.raise_reqLen (st : Status) : (s.raise st).reqLen = s.reqLen := rfl
@[simp] theorem State.raise_reqValue (st : Status) : (s.raise st).reqValue = s.reqValue := rfl
@[simp] theorem State.raise_reqRsv0 (st : Status) : (s.raise st).reqRsv0 = s.reqRsv0 := rfl
@[simp] theorem State.raise_reqRsv1 (st : Status) : (s.raise st).reqRsv1 = s.reqRsv1 := rfl
@[simp] theorem State.raise_src (st : Status) : (s.raise st).src = s.src := rfl
@[simp] theorem State.raise_dst (st : Status) : (s.raise st).dst = s.dst := rfl
@[simp] theorem State.raise_curAddr (st : Status) : (s.raise st).curAddr = s.curAddr := rfl
@[simp] theorem State.raise_curOff (st : Status) : (s.raise st).curOff = s.curOff := rfl
@[simp] theorem State.raise_remLen (st : Status) : (s.raise st).remLen = s.remLen := rfl
@[simp] theorem State.raise_pageRem (st : Status) : (s.raise st).pageRem = s.pageRem := rfl
@[simp] theorem State.raise_chunkLen (st : Status) : (s.raise st).chunkLen = s.chunkLen := rfl
@[simp] theorem State.raise_xferOk (st : Status) : (s.raise st).xferOk = s.xferOk := rfl
@[simp] theorem State.raise_rxByte (st : Status) : (s.raise st).rxByte = s.rxByte := rfl
@[simp] theorem State.raise_stage (st : Status) : (s.raise st).stage = s.stage := rfl
@[simp] theorem State.raise_stageLen (st : Status) : (s.raise st).stageLen = s.stageLen := rfl
@[simp] theorem State.raise_resultStatus (st : Status) : (s.raise st).resultStatus = st.code := rfl
@[simp] theorem State.raise_resultValue (st : Status) : (s.raise st).resultValue = 0 := rfl
@[simp] theorem State.raise_posted (st : Status) : (s.raise st).posted = s.posted + 1 := rfl
@[simp] theorem State.raise_benchBus (st : Status) : (s.raise st).benchBus = s.benchBus := rfl
@[simp] theorem State.raise_benchRx (st : Status) : (s.raise st).benchRx = s.benchRx := rfl
@[simp] theorem State.raise_benchGot (st : Status) : (s.raise st).benchGot = s.benchGot := rfl

/-! ## `State.accept` -/

@[simp] theorem State.accept_buses (d : Descriptor) : (s.accept d).buses = s.buses := rfl
@[simp] theorem State.accept_trace (d : Descriptor) : (s.accept d).trace = [] := rfl
@[simp] theorem State.accept_draws (d : Descriptor) : (s.accept d).draws = s.draws := rfl
@[simp] theorem State.accept_txAnswers (d : Descriptor) : (s.accept d).txAnswers = s.txAnswers := rfl
@[simp] theorem State.accept_rxAnswers (d : Descriptor) : (s.accept d).rxAnswers = s.rxAnswers := rfl
@[simp] theorem State.accept_host (d : Descriptor) : (s.accept d).host = s.host := rfl
@[simp] theorem State.accept_resetIn (d : Descriptor) : (s.accept d).resetIn = s.resetIn := rfl
@[simp] theorem State.accept_par (d : Descriptor) : (s.accept d).par = s.par := rfl
@[simp] theorem State.accept_phase (d : Descriptor) : (s.accept d).phase = .decode := rfl
@[simp] theorem State.accept_reqOp (d : Descriptor) : (s.accept d).reqOp = d.op := rfl
@[simp] theorem State.accept_reqBus (d : Descriptor) : (s.accept d).reqBus = d.bus := rfl
@[simp] theorem State.accept_reqAddr (d : Descriptor) : (s.accept d).reqAddr = d.addr := rfl
@[simp] theorem State.accept_reqLen (d : Descriptor) : (s.accept d).reqLen = d.len := rfl
@[simp] theorem State.accept_reqValue (d : Descriptor) : (s.accept d).reqValue = d.value := rfl
@[simp] theorem State.accept_reqRsv0 (d : Descriptor) : (s.accept d).reqRsv0 = d.rsv0 := rfl
@[simp] theorem State.accept_reqRsv1 (d : Descriptor) : (s.accept d).reqRsv1 = d.rsv1 := rfl
@[simp] theorem State.accept_src (d : Descriptor) : (s.accept d).src = s.src := rfl
@[simp] theorem State.accept_dst (d : Descriptor) : (s.accept d).dst = s.dst := rfl
@[simp] theorem State.accept_curAddr (d : Descriptor) : (s.accept d).curAddr = s.curAddr := rfl
@[simp] theorem State.accept_curOff (d : Descriptor) : (s.accept d).curOff = s.curOff := rfl
@[simp] theorem State.accept_remLen (d : Descriptor) : (s.accept d).remLen = s.remLen := rfl
@[simp] theorem State.accept_pageRem (d : Descriptor) : (s.accept d).pageRem = s.pageRem := rfl
@[simp] theorem State.accept_chunkLen (d : Descriptor) : (s.accept d).chunkLen = s.chunkLen := rfl
@[simp] theorem State.accept_xferOk (d : Descriptor) : (s.accept d).xferOk = s.xferOk := rfl
@[simp] theorem State.accept_rxByte (d : Descriptor) : (s.accept d).rxByte = s.rxByte := rfl
@[simp] theorem State.accept_stage (d : Descriptor) : (s.accept d).stage = s.stage := rfl
@[simp] theorem State.accept_stageLen (d : Descriptor) : (s.accept d).stageLen = s.stageLen := rfl
@[simp] theorem State.accept_resultStatus (d : Descriptor) : (s.accept d).resultStatus = s.resultStatus := rfl
@[simp] theorem State.accept_resultValue (d : Descriptor) : (s.accept d).resultValue = s.resultValue := rfl
@[simp] theorem State.accept_posted (d : Descriptor) : (s.accept d).posted = s.posted := rfl
@[simp] theorem State.accept_benchBus (d : Descriptor) : (s.accept d).benchBus = s.benchBus := rfl
@[simp] theorem State.accept_benchRx (d : Descriptor) : (s.accept d).benchRx = s.benchRx := rfl
@[simp] theorem State.accept_benchGot (d : Descriptor) : (s.accept d).benchGot = s.benchGot := rfl

/-! ## `State.setXferOk` -/

@[simp] theorem State.setXferOk_buses (ok : Bool) : (s.setXferOk ok).buses = s.buses := rfl
@[simp] theorem State.setXferOk_trace (ok : Bool) : (s.setXferOk ok).trace = s.trace := rfl
@[simp] theorem State.setXferOk_draws (ok : Bool) : (s.setXferOk ok).draws = s.draws := rfl
@[simp] theorem State.setXferOk_txAnswers (ok : Bool) : (s.setXferOk ok).txAnswers = s.txAnswers := rfl
@[simp] theorem State.setXferOk_rxAnswers (ok : Bool) : (s.setXferOk ok).rxAnswers = s.rxAnswers := rfl
@[simp] theorem State.setXferOk_host (ok : Bool) : (s.setXferOk ok).host = s.host := rfl
@[simp] theorem State.setXferOk_resetIn (ok : Bool) : (s.setXferOk ok).resetIn = s.resetIn := rfl
@[simp] theorem State.setXferOk_par (ok : Bool) : (s.setXferOk ok).par = s.par := rfl
@[simp] theorem State.setXferOk_phase (ok : Bool) : (s.setXferOk ok).phase = s.phase := rfl
@[simp] theorem State.setXferOk_reqOp (ok : Bool) : (s.setXferOk ok).reqOp = s.reqOp := rfl
@[simp] theorem State.setXferOk_reqBus (ok : Bool) : (s.setXferOk ok).reqBus = s.reqBus := rfl
@[simp] theorem State.setXferOk_reqAddr (ok : Bool) : (s.setXferOk ok).reqAddr = s.reqAddr := rfl
@[simp] theorem State.setXferOk_reqLen (ok : Bool) : (s.setXferOk ok).reqLen = s.reqLen := rfl
@[simp] theorem State.setXferOk_reqValue (ok : Bool) : (s.setXferOk ok).reqValue = s.reqValue := rfl
@[simp] theorem State.setXferOk_reqRsv0 (ok : Bool) : (s.setXferOk ok).reqRsv0 = s.reqRsv0 := rfl
@[simp] theorem State.setXferOk_reqRsv1 (ok : Bool) : (s.setXferOk ok).reqRsv1 = s.reqRsv1 := rfl
@[simp] theorem State.setXferOk_src (ok : Bool) : (s.setXferOk ok).src = s.src := rfl
@[simp] theorem State.setXferOk_dst (ok : Bool) : (s.setXferOk ok).dst = s.dst := rfl
@[simp] theorem State.setXferOk_curAddr (ok : Bool) : (s.setXferOk ok).curAddr = s.curAddr := rfl
@[simp] theorem State.setXferOk_curOff (ok : Bool) : (s.setXferOk ok).curOff = s.curOff := rfl
@[simp] theorem State.setXferOk_remLen (ok : Bool) : (s.setXferOk ok).remLen = s.remLen := rfl
@[simp] theorem State.setXferOk_pageRem (ok : Bool) : (s.setXferOk ok).pageRem = s.pageRem := rfl
@[simp] theorem State.setXferOk_chunkLen (ok : Bool) : (s.setXferOk ok).chunkLen = s.chunkLen := rfl
@[simp] theorem State.setXferOk_xferOk (ok : Bool) : (s.setXferOk ok).xferOk = ok := rfl
@[simp] theorem State.setXferOk_rxByte (ok : Bool) : (s.setXferOk ok).rxByte = s.rxByte := rfl
@[simp] theorem State.setXferOk_stage (ok : Bool) : (s.setXferOk ok).stage = s.stage := rfl
@[simp] theorem State.setXferOk_stageLen (ok : Bool) : (s.setXferOk ok).stageLen = s.stageLen := rfl
@[simp] theorem State.setXferOk_resultStatus (ok : Bool) : (s.setXferOk ok).resultStatus = s.resultStatus := rfl
@[simp] theorem State.setXferOk_resultValue (ok : Bool) : (s.setXferOk ok).resultValue = s.resultValue := rfl
@[simp] theorem State.setXferOk_posted (ok : Bool) : (s.setXferOk ok).posted = s.posted := rfl
@[simp] theorem State.setXferOk_benchBus (ok : Bool) : (s.setXferOk ok).benchBus = s.benchBus := rfl
@[simp] theorem State.setXferOk_benchRx (ok : Bool) : (s.setXferOk ok).benchRx = s.benchRx := rfl
@[simp] theorem State.setXferOk_benchGot (ok : Bool) : (s.setXferOk ok).benchGot = s.benchGot := rfl

/-! ## `State.setRxByte` -/

@[simp] theorem State.setRxByte_buses (v : BitVec 8) : (s.setRxByte v).buses = s.buses := rfl
@[simp] theorem State.setRxByte_trace (v : BitVec 8) : (s.setRxByte v).trace = s.trace := rfl
@[simp] theorem State.setRxByte_draws (v : BitVec 8) : (s.setRxByte v).draws = s.draws := rfl
@[simp] theorem State.setRxByte_txAnswers (v : BitVec 8) : (s.setRxByte v).txAnswers = s.txAnswers := rfl
@[simp] theorem State.setRxByte_rxAnswers (v : BitVec 8) : (s.setRxByte v).rxAnswers = s.rxAnswers := rfl
@[simp] theorem State.setRxByte_host (v : BitVec 8) : (s.setRxByte v).host = s.host := rfl
@[simp] theorem State.setRxByte_resetIn (v : BitVec 8) : (s.setRxByte v).resetIn = s.resetIn := rfl
@[simp] theorem State.setRxByte_par (v : BitVec 8) : (s.setRxByte v).par = s.par := rfl
@[simp] theorem State.setRxByte_phase (v : BitVec 8) : (s.setRxByte v).phase = s.phase := rfl
@[simp] theorem State.setRxByte_reqOp (v : BitVec 8) : (s.setRxByte v).reqOp = s.reqOp := rfl
@[simp] theorem State.setRxByte_reqBus (v : BitVec 8) : (s.setRxByte v).reqBus = s.reqBus := rfl
@[simp] theorem State.setRxByte_reqAddr (v : BitVec 8) : (s.setRxByte v).reqAddr = s.reqAddr := rfl
@[simp] theorem State.setRxByte_reqLen (v : BitVec 8) : (s.setRxByte v).reqLen = s.reqLen := rfl
@[simp] theorem State.setRxByte_reqValue (v : BitVec 8) : (s.setRxByte v).reqValue = s.reqValue := rfl
@[simp] theorem State.setRxByte_reqRsv0 (v : BitVec 8) : (s.setRxByte v).reqRsv0 = s.reqRsv0 := rfl
@[simp] theorem State.setRxByte_reqRsv1 (v : BitVec 8) : (s.setRxByte v).reqRsv1 = s.reqRsv1 := rfl
@[simp] theorem State.setRxByte_src (v : BitVec 8) : (s.setRxByte v).src = s.src := rfl
@[simp] theorem State.setRxByte_dst (v : BitVec 8) : (s.setRxByte v).dst = s.dst := rfl
@[simp] theorem State.setRxByte_curAddr (v : BitVec 8) : (s.setRxByte v).curAddr = s.curAddr := rfl
@[simp] theorem State.setRxByte_curOff (v : BitVec 8) : (s.setRxByte v).curOff = s.curOff := rfl
@[simp] theorem State.setRxByte_remLen (v : BitVec 8) : (s.setRxByte v).remLen = s.remLen := rfl
@[simp] theorem State.setRxByte_pageRem (v : BitVec 8) : (s.setRxByte v).pageRem = s.pageRem := rfl
@[simp] theorem State.setRxByte_chunkLen (v : BitVec 8) : (s.setRxByte v).chunkLen = s.chunkLen := rfl
@[simp] theorem State.setRxByte_xferOk (v : BitVec 8) : (s.setRxByte v).xferOk = s.xferOk := rfl
@[simp] theorem State.setRxByte_rxByte (v : BitVec 8) : (s.setRxByte v).rxByte = v := rfl
@[simp] theorem State.setRxByte_stage (v : BitVec 8) : (s.setRxByte v).stage = s.stage := rfl
@[simp] theorem State.setRxByte_stageLen (v : BitVec 8) : (s.setRxByte v).stageLen = s.stageLen := rfl
@[simp] theorem State.setRxByte_resultStatus (v : BitVec 8) : (s.setRxByte v).resultStatus = s.resultStatus := rfl
@[simp] theorem State.setRxByte_resultValue (v : BitVec 8) : (s.setRxByte v).resultValue = s.resultValue := rfl
@[simp] theorem State.setRxByte_posted (v : BitVec 8) : (s.setRxByte v).posted = s.posted := rfl
@[simp] theorem State.setRxByte_benchBus (v : BitVec 8) : (s.setRxByte v).benchBus = s.benchBus := rfl
@[simp] theorem State.setRxByte_benchRx (v : BitVec 8) : (s.setRxByte v).benchRx = s.benchRx := rfl
@[simp] theorem State.setRxByte_benchGot (v : BitVec 8) : (s.setRxByte v).benchGot = s.benchGot := rfl

/-! ## `State.setDst` -/

@[simp] theorem State.setDst_buses (xs : List (BitVec 8)) : (s.setDst xs).buses = s.buses := rfl
@[simp] theorem State.setDst_trace (xs : List (BitVec 8)) : (s.setDst xs).trace = s.trace := rfl
@[simp] theorem State.setDst_draws (xs : List (BitVec 8)) : (s.setDst xs).draws = s.draws := rfl
@[simp] theorem State.setDst_txAnswers (xs : List (BitVec 8)) : (s.setDst xs).txAnswers = s.txAnswers := rfl
@[simp] theorem State.setDst_rxAnswers (xs : List (BitVec 8)) : (s.setDst xs).rxAnswers = s.rxAnswers := rfl
@[simp] theorem State.setDst_host (xs : List (BitVec 8)) : (s.setDst xs).host = s.host := rfl
@[simp] theorem State.setDst_resetIn (xs : List (BitVec 8)) : (s.setDst xs).resetIn = s.resetIn := rfl
@[simp] theorem State.setDst_par (xs : List (BitVec 8)) : (s.setDst xs).par = s.par := rfl
@[simp] theorem State.setDst_phase (xs : List (BitVec 8)) : (s.setDst xs).phase = s.phase := rfl
@[simp] theorem State.setDst_reqOp (xs : List (BitVec 8)) : (s.setDst xs).reqOp = s.reqOp := rfl
@[simp] theorem State.setDst_reqBus (xs : List (BitVec 8)) : (s.setDst xs).reqBus = s.reqBus := rfl
@[simp] theorem State.setDst_reqAddr (xs : List (BitVec 8)) : (s.setDst xs).reqAddr = s.reqAddr := rfl
@[simp] theorem State.setDst_reqLen (xs : List (BitVec 8)) : (s.setDst xs).reqLen = s.reqLen := rfl
@[simp] theorem State.setDst_reqValue (xs : List (BitVec 8)) : (s.setDst xs).reqValue = s.reqValue := rfl
@[simp] theorem State.setDst_reqRsv0 (xs : List (BitVec 8)) : (s.setDst xs).reqRsv0 = s.reqRsv0 := rfl
@[simp] theorem State.setDst_reqRsv1 (xs : List (BitVec 8)) : (s.setDst xs).reqRsv1 = s.reqRsv1 := rfl
@[simp] theorem State.setDst_src (xs : List (BitVec 8)) : (s.setDst xs).src = s.src := rfl
@[simp] theorem State.setDst_dst (xs : List (BitVec 8)) : (s.setDst xs).dst = xs := rfl
@[simp] theorem State.setDst_curAddr (xs : List (BitVec 8)) : (s.setDst xs).curAddr = s.curAddr := rfl
@[simp] theorem State.setDst_curOff (xs : List (BitVec 8)) : (s.setDst xs).curOff = s.curOff := rfl
@[simp] theorem State.setDst_remLen (xs : List (BitVec 8)) : (s.setDst xs).remLen = s.remLen := rfl
@[simp] theorem State.setDst_pageRem (xs : List (BitVec 8)) : (s.setDst xs).pageRem = s.pageRem := rfl
@[simp] theorem State.setDst_chunkLen (xs : List (BitVec 8)) : (s.setDst xs).chunkLen = s.chunkLen := rfl
@[simp] theorem State.setDst_xferOk (xs : List (BitVec 8)) : (s.setDst xs).xferOk = s.xferOk := rfl
@[simp] theorem State.setDst_rxByte (xs : List (BitVec 8)) : (s.setDst xs).rxByte = s.rxByte := rfl
@[simp] theorem State.setDst_stage (xs : List (BitVec 8)) : (s.setDst xs).stage = s.stage := rfl
@[simp] theorem State.setDst_stageLen (xs : List (BitVec 8)) : (s.setDst xs).stageLen = s.stageLen := rfl
@[simp] theorem State.setDst_resultStatus (xs : List (BitVec 8)) : (s.setDst xs).resultStatus = s.resultStatus := rfl
@[simp] theorem State.setDst_resultValue (xs : List (BitVec 8)) : (s.setDst xs).resultValue = s.resultValue := rfl
@[simp] theorem State.setDst_posted (xs : List (BitVec 8)) : (s.setDst xs).posted = s.posted := rfl
@[simp] theorem State.setDst_benchBus (xs : List (BitVec 8)) : (s.setDst xs).benchBus = s.benchBus := rfl
@[simp] theorem State.setDst_benchRx (xs : List (BitVec 8)) : (s.setDst xs).benchRx = s.benchRx := rfl
@[simp] theorem State.setDst_benchGot (xs : List (BitVec 8)) : (s.setDst xs).benchGot = s.benchGot := rfl

/-! ## `State.startSplitter` -/

@[simp] theorem State.startSplitter_buses : (s.startSplitter).buses = s.buses := rfl
@[simp] theorem State.startSplitter_trace : (s.startSplitter).trace = s.trace := rfl
@[simp] theorem State.startSplitter_draws : (s.startSplitter).draws = s.draws := rfl
@[simp] theorem State.startSplitter_txAnswers : (s.startSplitter).txAnswers = s.txAnswers := rfl
@[simp] theorem State.startSplitter_rxAnswers : (s.startSplitter).rxAnswers = s.rxAnswers := rfl
@[simp] theorem State.startSplitter_host : (s.startSplitter).host = s.host := rfl
@[simp] theorem State.startSplitter_resetIn : (s.startSplitter).resetIn = s.resetIn := rfl
@[simp] theorem State.startSplitter_par : (s.startSplitter).par = s.par := rfl
@[simp] theorem State.startSplitter_phase : (s.startSplitter).phase = s.phase := rfl
@[simp] theorem State.startSplitter_reqOp : (s.startSplitter).reqOp = s.reqOp := rfl
@[simp] theorem State.startSplitter_reqBus : (s.startSplitter).reqBus = s.reqBus := rfl
@[simp] theorem State.startSplitter_reqAddr : (s.startSplitter).reqAddr = s.reqAddr := rfl
@[simp] theorem State.startSplitter_reqLen : (s.startSplitter).reqLen = s.reqLen := rfl
@[simp] theorem State.startSplitter_reqValue : (s.startSplitter).reqValue = s.reqValue := rfl
@[simp] theorem State.startSplitter_reqRsv0 : (s.startSplitter).reqRsv0 = s.reqRsv0 := rfl
@[simp] theorem State.startSplitter_reqRsv1 : (s.startSplitter).reqRsv1 = s.reqRsv1 := rfl
@[simp] theorem State.startSplitter_src : (s.startSplitter).src = s.src := rfl
@[simp] theorem State.startSplitter_dst : (s.startSplitter).dst = s.dst := rfl
@[simp] theorem State.startSplitter_curAddr : (s.startSplitter).curAddr = s.reqAddr := rfl
@[simp] theorem State.startSplitter_curOff : (s.startSplitter).curOff = 0 := rfl
@[simp] theorem State.startSplitter_remLen : (s.startSplitter).remLen = s.reqLen := rfl
@[simp] theorem State.startSplitter_pageRem : (s.startSplitter).pageRem = s.pageRem := rfl
@[simp] theorem State.startSplitter_chunkLen : (s.startSplitter).chunkLen = s.chunkLen := rfl
@[simp] theorem State.startSplitter_xferOk : (s.startSplitter).xferOk = s.xferOk := rfl
@[simp] theorem State.startSplitter_rxByte : (s.startSplitter).rxByte = s.rxByte := rfl
@[simp] theorem State.startSplitter_stage : (s.startSplitter).stage = s.stage := rfl
@[simp] theorem State.startSplitter_stageLen : (s.startSplitter).stageLen = s.stageLen := rfl
@[simp] theorem State.startSplitter_resultStatus : (s.startSplitter).resultStatus = s.resultStatus := rfl
@[simp] theorem State.startSplitter_resultValue : (s.startSplitter).resultValue = s.resultValue := rfl
@[simp] theorem State.startSplitter_posted : (s.startSplitter).posted = s.posted := rfl
@[simp] theorem State.startSplitter_benchBus : (s.startSplitter).benchBus = s.benchBus := rfl
@[simp] theorem State.startSplitter_benchRx : (s.startSplitter).benchRx = s.benchRx := rfl
@[simp] theorem State.startSplitter_benchGot : (s.startSplitter).benchGot = s.benchGot := rfl

/-! ## `State.planChunk` -/

@[simp] theorem State.planChunk_buses : (s.planChunk).buses = s.buses := rfl
@[simp] theorem State.planChunk_trace : (s.planChunk).trace = s.trace := rfl
@[simp] theorem State.planChunk_draws : (s.planChunk).draws = s.draws := rfl
@[simp] theorem State.planChunk_txAnswers : (s.planChunk).txAnswers = s.txAnswers := rfl
@[simp] theorem State.planChunk_rxAnswers : (s.planChunk).rxAnswers = s.rxAnswers := rfl
@[simp] theorem State.planChunk_host : (s.planChunk).host = s.host := rfl
@[simp] theorem State.planChunk_resetIn : (s.planChunk).resetIn = s.resetIn := rfl
@[simp] theorem State.planChunk_par : (s.planChunk).par = s.par := rfl
@[simp] theorem State.planChunk_phase : (s.planChunk).phase = s.phase := rfl
@[simp] theorem State.planChunk_reqOp : (s.planChunk).reqOp = s.reqOp := rfl
@[simp] theorem State.planChunk_reqBus : (s.planChunk).reqBus = s.reqBus := rfl
@[simp] theorem State.planChunk_reqAddr : (s.planChunk).reqAddr = s.reqAddr := rfl
@[simp] theorem State.planChunk_reqLen : (s.planChunk).reqLen = s.reqLen := rfl
@[simp] theorem State.planChunk_reqValue : (s.planChunk).reqValue = s.reqValue := rfl
@[simp] theorem State.planChunk_reqRsv0 : (s.planChunk).reqRsv0 = s.reqRsv0 := rfl
@[simp] theorem State.planChunk_reqRsv1 : (s.planChunk).reqRsv1 = s.reqRsv1 := rfl
@[simp] theorem State.planChunk_src : (s.planChunk).src = s.src := rfl
@[simp] theorem State.planChunk_dst : (s.planChunk).dst = s.dst := rfl
@[simp] theorem State.planChunk_curAddr : (s.planChunk).curAddr = s.curAddr := rfl
@[simp] theorem State.planChunk_curOff : (s.planChunk).curOff = s.curOff := rfl
@[simp] theorem State.planChunk_remLen : (s.planChunk).remLen = s.remLen := rfl
@[simp] theorem State.planChunk_pageRem : (s.planChunk).pageRem = pageRemaining s.curAddr.toNat := rfl
@[simp] theorem State.planChunk_chunkLen : (s.planChunk).chunkLen = chunkLength s.curAddr.toNat s.remLen.toNat := rfl
@[simp] theorem State.planChunk_xferOk : (s.planChunk).xferOk = s.xferOk := rfl
@[simp] theorem State.planChunk_rxByte : (s.planChunk).rxByte = s.rxByte := rfl
@[simp] theorem State.planChunk_stage : (s.planChunk).stage = s.stage := rfl
@[simp] theorem State.planChunk_stageLen : (s.planChunk).stageLen = s.stageLen := rfl
@[simp] theorem State.planChunk_resultStatus : (s.planChunk).resultStatus = s.resultStatus := rfl
@[simp] theorem State.planChunk_resultValue : (s.planChunk).resultValue = s.resultValue := rfl
@[simp] theorem State.planChunk_posted : (s.planChunk).posted = s.posted := rfl
@[simp] theorem State.planChunk_benchBus : (s.planChunk).benchBus = s.benchBus := rfl
@[simp] theorem State.planChunk_benchRx : (s.planChunk).benchRx = s.benchRx := rfl
@[simp] theorem State.planChunk_benchGot : (s.planChunk).benchGot = s.benchGot := rfl

/-! ## `State.advanceChunk` -/

@[simp] theorem State.advanceChunk_buses : (s.advanceChunk).buses = s.buses := rfl
@[simp] theorem State.advanceChunk_trace : (s.advanceChunk).trace = s.trace := rfl
@[simp] theorem State.advanceChunk_draws : (s.advanceChunk).draws = s.draws := rfl
@[simp] theorem State.advanceChunk_txAnswers : (s.advanceChunk).txAnswers = s.txAnswers := rfl
@[simp] theorem State.advanceChunk_rxAnswers : (s.advanceChunk).rxAnswers = s.rxAnswers := rfl
@[simp] theorem State.advanceChunk_host : (s.advanceChunk).host = s.host := rfl
@[simp] theorem State.advanceChunk_resetIn : (s.advanceChunk).resetIn = s.resetIn := rfl
@[simp] theorem State.advanceChunk_par : (s.advanceChunk).par = s.par := rfl
@[simp] theorem State.advanceChunk_phase : (s.advanceChunk).phase = s.phase := rfl
@[simp] theorem State.advanceChunk_reqOp : (s.advanceChunk).reqOp = s.reqOp := rfl
@[simp] theorem State.advanceChunk_reqBus : (s.advanceChunk).reqBus = s.reqBus := rfl
@[simp] theorem State.advanceChunk_reqAddr : (s.advanceChunk).reqAddr = s.reqAddr := rfl
@[simp] theorem State.advanceChunk_reqLen : (s.advanceChunk).reqLen = s.reqLen := rfl
@[simp] theorem State.advanceChunk_reqValue : (s.advanceChunk).reqValue = s.reqValue := rfl
@[simp] theorem State.advanceChunk_reqRsv0 : (s.advanceChunk).reqRsv0 = s.reqRsv0 := rfl
@[simp] theorem State.advanceChunk_reqRsv1 : (s.advanceChunk).reqRsv1 = s.reqRsv1 := rfl
@[simp] theorem State.advanceChunk_src : (s.advanceChunk).src = s.src := rfl
@[simp] theorem State.advanceChunk_dst : (s.advanceChunk).dst = s.dst := rfl
@[simp] theorem State.advanceChunk_curAddr : (s.advanceChunk).curAddr = s.curAddr + BitVec.ofNat 16 s.chunkLen := rfl
@[simp] theorem State.advanceChunk_curOff : (s.advanceChunk).curOff = s.curOff + BitVec.ofNat 16 s.chunkLen := rfl
@[simp] theorem State.advanceChunk_remLen : (s.advanceChunk).remLen = s.remLen - BitVec.ofNat 16 s.chunkLen := rfl
@[simp] theorem State.advanceChunk_pageRem : (s.advanceChunk).pageRem = s.pageRem := rfl
@[simp] theorem State.advanceChunk_chunkLen : (s.advanceChunk).chunkLen = s.chunkLen := rfl
@[simp] theorem State.advanceChunk_xferOk : (s.advanceChunk).xferOk = s.xferOk := rfl
@[simp] theorem State.advanceChunk_rxByte : (s.advanceChunk).rxByte = s.rxByte := rfl
@[simp] theorem State.advanceChunk_stage : (s.advanceChunk).stage = s.stage := rfl
@[simp] theorem State.advanceChunk_stageLen : (s.advanceChunk).stageLen = s.stageLen := rfl
@[simp] theorem State.advanceChunk_resultStatus : (s.advanceChunk).resultStatus = s.resultStatus := rfl
@[simp] theorem State.advanceChunk_resultValue : (s.advanceChunk).resultValue = s.resultValue := rfl
@[simp] theorem State.advanceChunk_posted : (s.advanceChunk).posted = s.posted := rfl
@[simp] theorem State.advanceChunk_benchBus : (s.advanceChunk).benchBus = s.benchBus := rfl
@[simp] theorem State.advanceChunk_benchRx : (s.advanceChunk).benchRx = s.benchRx := rfl
@[simp] theorem State.advanceChunk_benchGot : (s.advanceChunk).benchGot = s.benchGot := rfl

/-! ## `State.stageBytes` -/

@[simp] theorem State.stageBytes_buses (xs : List (BitVec 8)) : (s.stageBytes xs).buses = s.buses := rfl
@[simp] theorem State.stageBytes_trace (xs : List (BitVec 8)) : (s.stageBytes xs).trace = s.trace := rfl
@[simp] theorem State.stageBytes_draws (xs : List (BitVec 8)) : (s.stageBytes xs).draws = s.draws := rfl
@[simp] theorem State.stageBytes_txAnswers (xs : List (BitVec 8)) : (s.stageBytes xs).txAnswers = s.txAnswers := rfl
@[simp] theorem State.stageBytes_rxAnswers (xs : List (BitVec 8)) : (s.stageBytes xs).rxAnswers = s.rxAnswers := rfl
@[simp] theorem State.stageBytes_host (xs : List (BitVec 8)) : (s.stageBytes xs).host = s.host := rfl
@[simp] theorem State.stageBytes_resetIn (xs : List (BitVec 8)) : (s.stageBytes xs).resetIn = s.resetIn := rfl
@[simp] theorem State.stageBytes_par (xs : List (BitVec 8)) : (s.stageBytes xs).par = s.par := rfl
@[simp] theorem State.stageBytes_phase (xs : List (BitVec 8)) : (s.stageBytes xs).phase = s.phase := rfl
@[simp] theorem State.stageBytes_reqOp (xs : List (BitVec 8)) : (s.stageBytes xs).reqOp = s.reqOp := rfl
@[simp] theorem State.stageBytes_reqBus (xs : List (BitVec 8)) : (s.stageBytes xs).reqBus = s.reqBus := rfl
@[simp] theorem State.stageBytes_reqAddr (xs : List (BitVec 8)) : (s.stageBytes xs).reqAddr = s.reqAddr := rfl
@[simp] theorem State.stageBytes_reqLen (xs : List (BitVec 8)) : (s.stageBytes xs).reqLen = s.reqLen := rfl
@[simp] theorem State.stageBytes_reqValue (xs : List (BitVec 8)) : (s.stageBytes xs).reqValue = s.reqValue := rfl
@[simp] theorem State.stageBytes_reqRsv0 (xs : List (BitVec 8)) : (s.stageBytes xs).reqRsv0 = s.reqRsv0 := rfl
@[simp] theorem State.stageBytes_reqRsv1 (xs : List (BitVec 8)) : (s.stageBytes xs).reqRsv1 = s.reqRsv1 := rfl
@[simp] theorem State.stageBytes_src (xs : List (BitVec 8)) : (s.stageBytes xs).src = s.src := rfl
@[simp] theorem State.stageBytes_dst (xs : List (BitVec 8)) : (s.stageBytes xs).dst = s.dst := rfl
@[simp] theorem State.stageBytes_curAddr (xs : List (BitVec 8)) : (s.stageBytes xs).curAddr = s.curAddr := rfl
@[simp] theorem State.stageBytes_curOff (xs : List (BitVec 8)) : (s.stageBytes xs).curOff = s.curOff := rfl
@[simp] theorem State.stageBytes_remLen (xs : List (BitVec 8)) : (s.stageBytes xs).remLen = s.remLen := rfl
@[simp] theorem State.stageBytes_pageRem (xs : List (BitVec 8)) : (s.stageBytes xs).pageRem = s.pageRem := rfl
@[simp] theorem State.stageBytes_chunkLen (xs : List (BitVec 8)) : (s.stageBytes xs).chunkLen = s.chunkLen := rfl
@[simp] theorem State.stageBytes_xferOk (xs : List (BitVec 8)) : (s.stageBytes xs).xferOk = s.xferOk := rfl
@[simp] theorem State.stageBytes_rxByte (xs : List (BitVec 8)) : (s.stageBytes xs).rxByte = s.rxByte := rfl
@[simp] theorem State.stageBytes_stage (xs : List (BitVec 8)) : (s.stageBytes xs).stage = overwritePrefix s.stage xs := rfl
@[simp] theorem State.stageBytes_stageLen (xs : List (BitVec 8)) : (s.stageBytes xs).stageLen = xs.length := rfl
@[simp] theorem State.stageBytes_resultStatus (xs : List (BitVec 8)) : (s.stageBytes xs).resultStatus = s.resultStatus := rfl
@[simp] theorem State.stageBytes_resultValue (xs : List (BitVec 8)) : (s.stageBytes xs).resultValue = s.resultValue := rfl
@[simp] theorem State.stageBytes_posted (xs : List (BitVec 8)) : (s.stageBytes xs).posted = s.posted := rfl
@[simp] theorem State.stageBytes_benchBus (xs : List (BitVec 8)) : (s.stageBytes xs).benchBus = s.benchBus := rfl
@[simp] theorem State.stageBytes_benchRx (xs : List (BitVec 8)) : (s.stageBytes xs).benchRx = s.benchRx := rfl
@[simp] theorem State.stageBytes_benchGot (xs : List (BitVec 8)) : (s.stageBytes xs).benchGot = s.benchGot := rfl

end Sys2Proof.Machine
end

