-- ==== Sys2Proof/Laws/Bus.lean ====
section
/-! SUPPORT. What the operations do to one bus: its device, its chip-select line, its bytes; and what they leave of the others. -/

namespace Sys2Proof.Machine

variable (s : State)

/-! ## `State.device` where nothing it reads is written -/

@[simp] theorem State.record_device (e : Event) (b : BitVec 8) : (s.record e).device b = s.device b := rfl
@[simp] theorem State.goto_device (p : Phase) (b : BitVec 8) : (s.goto p).device b = s.device b := rfl
@[simp] theorem State.drew_device (k : Nat) (b : BitVec 8) : (s.drew k).device b = s.device b := rfl
@[simp] theorem State.finish_device (st : Status) (v : BitVec 8) (b : BitVec 8) : (s.finish st v).device b = s.device b := rfl
@[simp] theorem State.raise_device (st : Status) (b : BitVec 8) : (s.raise st).device b = s.device b := rfl
@[simp] theorem State.accept_device (d : Descriptor) (b : BitVec 8) : (s.accept d).device b = s.device b := rfl
@[simp] theorem State.setXferOk_device (ok : Bool) (b : BitVec 8) : (s.setXferOk ok).device b = s.device b := rfl
@[simp] theorem State.setRxByte_device (v : BitVec 8) (b : BitVec 8) : (s.setRxByte v).device b = s.device b := rfl
@[simp] theorem State.setDst_device (xs : List (BitVec 8)) (b : BitVec 8) : (s.setDst xs).device b = s.device b := rfl
@[simp] theorem State.startSplitter_device (b : BitVec 8) : (s.startSplitter).device b = s.device b := rfl
@[simp] theorem State.planChunk_device (b : BitVec 8) : (s.planChunk).device b = s.device b := rfl
@[simp] theorem State.advanceChunk_device (b : BitVec 8) : (s.advanceChunk).device b = s.device b := rfl
@[simp] theorem State.stageBytes_device (xs : List (BitVec 8)) (b : BitVec 8) : (s.stageBytes xs).device b = s.device b := rfl

/-! ## `State.chipSelect` where nothing it reads is written -/

@[simp] theorem State.record_chipSelect (e : Event) (b : BitVec 8) : (s.record e).chipSelect b = s.chipSelect b := rfl
@[simp] theorem State.goto_chipSelect (p : Phase) (b : BitVec 8) : (s.goto p).chipSelect b = s.chipSelect b := rfl
@[simp] theorem State.drew_chipSelect (k : Nat) (b : BitVec 8) : (s.drew k).chipSelect b = s.chipSelect b := rfl
@[simp] theorem State.finish_chipSelect (st : Status) (v : BitVec 8) (b : BitVec 8) : (s.finish st v).chipSelect b = s.chipSelect b := rfl
@[simp] theorem State.raise_chipSelect (st : Status) (b : BitVec 8) : (s.raise st).chipSelect b = s.chipSelect b := rfl
@[simp] theorem State.accept_chipSelect (d : Descriptor) (b : BitVec 8) : (s.accept d).chipSelect b = s.chipSelect b := rfl
@[simp] theorem State.setXferOk_chipSelect (ok : Bool) (b : BitVec 8) : (s.setXferOk ok).chipSelect b = s.chipSelect b := rfl
@[simp] theorem State.setRxByte_chipSelect (v : BitVec 8) (b : BitVec 8) : (s.setRxByte v).chipSelect b = s.chipSelect b := rfl
@[simp] theorem State.setDst_chipSelect (xs : List (BitVec 8)) (b : BitVec 8) : (s.setDst xs).chipSelect b = s.chipSelect b := rfl
@[simp] theorem State.startSplitter_chipSelect (b : BitVec 8) : (s.startSplitter).chipSelect b = s.chipSelect b := rfl
@[simp] theorem State.planChunk_chipSelect (b : BitVec 8) : (s.planChunk).chipSelect b = s.chipSelect b := rfl
@[simp] theorem State.advanceChunk_chipSelect (b : BitVec 8) : (s.advanceChunk).chipSelect b = s.chipSelect b := rfl
@[simp] theorem State.stageBytes_chipSelect (xs : List (BitVec 8)) (b : BitVec 8) : (s.stageBytes xs).chipSelect b = s.chipSelect b := rfl

/-! ## `State.numBuses` where nothing it reads is written -/

@[simp] theorem State.record_numBuses (e : Event) : (s.record e).numBuses = s.numBuses := rfl
@[simp] theorem State.goto_numBuses (p : Phase) : (s.goto p).numBuses = s.numBuses := rfl
@[simp] theorem State.drew_numBuses (k : Nat) : (s.drew k).numBuses = s.numBuses := rfl
@[simp] theorem State.finish_numBuses (st : Status) (v : BitVec 8) : (s.finish st v).numBuses = s.numBuses := rfl
@[simp] theorem State.raise_numBuses (st : Status) : (s.raise st).numBuses = s.numBuses := rfl
@[simp] theorem State.accept_numBuses (d : Descriptor) : (s.accept d).numBuses = s.numBuses := rfl
@[simp] theorem State.setXferOk_numBuses (ok : Bool) : (s.setXferOk ok).numBuses = s.numBuses := rfl
@[simp] theorem State.setRxByte_numBuses (v : BitVec 8) : (s.setRxByte v).numBuses = s.numBuses := rfl
@[simp] theorem State.setDst_numBuses (xs : List (BitVec 8)) : (s.setDst xs).numBuses = s.numBuses := rfl
@[simp] theorem State.startSplitter_numBuses : (s.startSplitter).numBuses = s.numBuses := rfl
@[simp] theorem State.planChunk_numBuses : (s.planChunk).numBuses = s.numBuses := rfl
@[simp] theorem State.advanceChunk_numBuses : (s.advanceChunk).numBuses = s.numBuses := rfl
@[simp] theorem State.stageBytes_numBuses (xs : List (BitVec 8)) : (s.stageBytes xs).numBuses = s.numBuses := rfl

/-! ## `State.memByte` where nothing it reads is written -/

@[simp] theorem State.record_memByte (e : Event) (b : BitVec 8) (a : Nat) : (s.record e).memByte b a = s.memByte b a := rfl
@[simp] theorem State.goto_memByte (p : Phase) (b : BitVec 8) (a : Nat) : (s.goto p).memByte b a = s.memByte b a := rfl
@[simp] theorem State.drew_memByte (k : Nat) (b : BitVec 8) (a : Nat) : (s.drew k).memByte b a = s.memByte b a := rfl
@[simp] theorem State.finish_memByte (st : Status) (v : BitVec 8) (b : BitVec 8) (a : Nat) : (s.finish st v).memByte b a = s.memByte b a := rfl
@[simp] theorem State.raise_memByte (st : Status) (b : BitVec 8) (a : Nat) : (s.raise st).memByte b a = s.memByte b a := rfl
@[simp] theorem State.accept_memByte (d : Descriptor) (b : BitVec 8) (a : Nat) : (s.accept d).memByte b a = s.memByte b a := rfl
@[simp] theorem State.setXferOk_memByte (ok : Bool) (b : BitVec 8) (a : Nat) : (s.setXferOk ok).memByte b a = s.memByte b a := rfl
@[simp] theorem State.setRxByte_memByte (v : BitVec 8) (b : BitVec 8) (a : Nat) : (s.setRxByte v).memByte b a = s.memByte b a := rfl
@[simp] theorem State.setDst_memByte (xs : List (BitVec 8)) (b : BitVec 8) (a : Nat) : (s.setDst xs).memByte b a = s.memByte b a := rfl
@[simp] theorem State.startSplitter_memByte (b : BitVec 8) (a : Nat) : (s.startSplitter).memByte b a = s.memByte b a := rfl
@[simp] theorem State.planChunk_memByte (b : BitVec 8) (a : Nat) : (s.planChunk).memByte b a = s.memByte b a := rfl
@[simp] theorem State.advanceChunk_memByte (b : BitVec 8) (a : Nat) : (s.advanceChunk).memByte b a = s.memByte b a := rfl
@[simp] theorem State.stageBytes_memByte (xs : List (BitVec 8)) (b : BitVec 8) (a : Nat) : (s.stageBytes xs).memByte b a = s.memByte b a := rfl

/-! ## `State.nextTx` where nothing it reads is written -/

@[simp] theorem State.record_nextTx (e : Event) : (s.record e).nextTx = s.nextTx := rfl
@[simp] theorem State.goto_nextTx (p : Phase) : (s.goto p).nextTx = s.nextTx := rfl
@[simp] theorem State.deviceSelect_nextTx (b' : BitVec 8) : (s.deviceSelect b').nextTx = s.nextTx := rfl
@[simp] theorem State.passTime_nextTx (ms : Nat) : (s.passTime ms).nextTx = s.nextTx := rfl
@[simp] theorem State.select_nextTx : (s.select).nextTx = s.nextTx := rfl
@[simp] theorem State.delay_nextTx (ms : Nat) : (s.delay ms).nextTx = s.nextTx := rfl
@[simp] theorem State.finish_nextTx (st : Status) (v : BitVec 8) : (s.finish st v).nextTx = s.nextTx := rfl
@[simp] theorem State.raise_nextTx (st : Status) : (s.raise st).nextTx = s.nextTx := rfl
@[simp] theorem State.accept_nextTx (d : Descriptor) : (s.accept d).nextTx = s.nextTx := rfl
@[simp] theorem State.setXferOk_nextTx (ok : Bool) : (s.setXferOk ok).nextTx = s.nextTx := rfl
@[simp] theorem State.setRxByte_nextTx (v : BitVec 8) : (s.setRxByte v).nextTx = s.nextTx := rfl
@[simp] theorem State.setDst_nextTx (xs : List (BitVec 8)) : (s.setDst xs).nextTx = s.nextTx := rfl
@[simp] theorem State.startSplitter_nextTx : (s.startSplitter).nextTx = s.nextTx := rfl
@[simp] theorem State.planChunk_nextTx : (s.planChunk).nextTx = s.nextTx := rfl
@[simp] theorem State.advanceChunk_nextTx : (s.advanceChunk).nextTx = s.nextTx := rfl
@[simp] theorem State.stageBytes_nextTx (xs : List (BitVec 8)) : (s.stageBytes xs).nextTx = s.nextTx := rfl

/-! ## `State.nextRx` where nothing it reads is written -/

@[simp] theorem State.record_nextRx (e : Event) (n : Nat) : (s.record e).nextRx n = s.nextRx n := rfl
@[simp] theorem State.goto_nextRx (p : Phase) (n : Nat) : (s.goto p).nextRx n = s.nextRx n := rfl
@[simp] theorem State.deviceSelect_nextRx (b' : BitVec 8) (n : Nat) : (s.deviceSelect b').nextRx n = s.nextRx n := rfl
@[simp] theorem State.passTime_nextRx (ms : Nat) (n : Nat) : (s.passTime ms).nextRx n = s.nextRx n := rfl
@[simp] theorem State.select_nextRx (n : Nat) : (s.select).nextRx n = s.nextRx n := rfl
@[simp] theorem State.delay_nextRx (ms : Nat) (n : Nat) : (s.delay ms).nextRx n = s.nextRx n := rfl
@[simp] theorem State.finish_nextRx (st : Status) (v : BitVec 8) (n : Nat) : (s.finish st v).nextRx n = s.nextRx n := rfl
@[simp] theorem State.raise_nextRx (st : Status) (n : Nat) : (s.raise st).nextRx n = s.nextRx n := rfl
@[simp] theorem State.accept_nextRx (d : Descriptor) (n : Nat) : (s.accept d).nextRx n = s.nextRx n := rfl
@[simp] theorem State.setXferOk_nextRx (ok : Bool) (n : Nat) : (s.setXferOk ok).nextRx n = s.nextRx n := rfl
@[simp] theorem State.setRxByte_nextRx (v : BitVec 8) (n : Nat) : (s.setRxByte v).nextRx n = s.nextRx n := rfl
@[simp] theorem State.setDst_nextRx (xs : List (BitVec 8)) (n : Nat) : (s.setDst xs).nextRx n = s.nextRx n := rfl
@[simp] theorem State.startSplitter_nextRx (n : Nat) : (s.startSplitter).nextRx n = s.nextRx n := rfl
@[simp] theorem State.planChunk_nextRx (n : Nat) : (s.planChunk).nextRx n = s.nextRx n := rfl
@[simp] theorem State.advanceChunk_nextRx (n : Nat) : (s.advanceChunk).nextRx n = s.nextRx n := rfl
@[simp] theorem State.stageBytes_nextRx (xs : List (BitVec 8)) (n : Nat) : (s.stageBytes xs).nextRx n = s.nextRx n := rfl

/-! ## `State.staged` where nothing it reads is written -/

@[simp] theorem State.record_staged (e : Event) : (s.record e).staged = s.staged := rfl
@[simp] theorem State.goto_staged (p : Phase) : (s.goto p).staged = s.staged := rfl
@[simp] theorem State.drew_staged (k : Nat) : (s.drew k).staged = s.staged := rfl
@[simp] theorem State.deviceSelect_staged (b' : BitVec 8) : (s.deviceSelect b').staged = s.staged := rfl
@[simp] theorem State.deviceDeselect_staged (b' : BitVec 8) : (s.deviceDeselect b').staged = s.staged := rfl
@[simp] theorem State.deviceTx_staged (b' : BitVec 8) (xs : List (BitVec 8)) : (s.deviceTx b' xs).staged = s.staged := rfl
@[simp] theorem State.deviceRx_staged (b' : BitVec 8) (k : Nat) : (s.deviceRx b' k).staged = s.staged := rfl
@[simp] theorem State.passTime_staged (ms : Nat) : (s.passTime ms).staged = s.staged := rfl
@[simp] theorem State.select_staged : (s.select).staged = s.staged := rfl
@[simp] theorem State.deselect_staged : (s.deselect).staged = s.staged := rfl
@[simp] theorem State.transmit_staged : (s.transmit).staged = s.staged := rfl
@[simp] theorem State.receive_staged (k : Nat) : (s.receive k).staged = s.staged := rfl
@[simp] theorem State.delay_staged (ms : Nat) : (s.delay ms).staged = s.staged := rfl
@[simp] theorem State.finish_staged (st : Status) (v : BitVec 8) : (s.finish st v).staged = s.staged := rfl
@[simp] theorem State.raise_staged (st : Status) : (s.raise st).staged = s.staged := rfl
@[simp] theorem State.accept_staged (d : Descriptor) : (s.accept d).staged = s.staged := rfl
@[simp] theorem State.setXferOk_staged (ok : Bool) : (s.setXferOk ok).staged = s.staged := rfl
@[simp] theorem State.setRxByte_staged (v : BitVec 8) : (s.setRxByte v).staged = s.staged := rfl
@[simp] theorem State.setDst_staged (xs : List (BitVec 8)) : (s.setDst xs).staged = s.staged := rfl
@[simp] theorem State.startSplitter_staged : (s.startSplitter).staged = s.staged := rfl
@[simp] theorem State.planChunk_staged : (s.planChunk).staged = s.staged := rfl
@[simp] theorem State.advanceChunk_staged : (s.advanceChunk).staged = s.staged := rfl

/-! ## `State.rxBytes` where nothing it reads is written -/

@[simp] theorem State.record_rxBytes (e : Event) (b : BitVec 8) (n : Nat) : (s.record e).rxBytes b n = s.rxBytes b n := rfl
@[simp] theorem State.goto_rxBytes (p : Phase) (b : BitVec 8) (n : Nat) : (s.goto p).rxBytes b n = s.rxBytes b n := rfl
@[simp] theorem State.finish_rxBytes (st : Status) (v : BitVec 8) (b : BitVec 8) (n : Nat) : (s.finish st v).rxBytes b n = s.rxBytes b n := rfl
@[simp] theorem State.raise_rxBytes (st : Status) (b : BitVec 8) (n : Nat) : (s.raise st).rxBytes b n = s.rxBytes b n := rfl
@[simp] theorem State.accept_rxBytes (d : Descriptor) (b : BitVec 8) (n : Nat) : (s.accept d).rxBytes b n = s.rxBytes b n := rfl
@[simp] theorem State.setXferOk_rxBytes (ok : Bool) (b : BitVec 8) (n : Nat) : (s.setXferOk ok).rxBytes b n = s.rxBytes b n := rfl
@[simp] theorem State.setRxByte_rxBytes (v : BitVec 8) (b : BitVec 8) (n : Nat) : (s.setRxByte v).rxBytes b n = s.rxBytes b n := rfl
@[simp] theorem State.setDst_rxBytes (xs : List (BitVec 8)) (b : BitVec 8) (n : Nat) : (s.setDst xs).rxBytes b n = s.rxBytes b n := rfl
@[simp] theorem State.startSplitter_rxBytes (b : BitVec 8) (n : Nat) : (s.startSplitter).rxBytes b n = s.rxBytes b n := rfl
@[simp] theorem State.planChunk_rxBytes (b : BitVec 8) (n : Nat) : (s.planChunk).rxBytes b n = s.rxBytes b n := rfl
@[simp] theorem State.advanceChunk_rxBytes (b : BitVec 8) (n : Nat) : (s.advanceChunk).rxBytes b n = s.rxBytes b n := rfl
@[simp] theorem State.stageBytes_rxBytes (xs : List (BitVec 8)) (b : BitVec 8) (n : Nat) : (s.stageBytes xs).rxBytes b n = s.rxBytes b n := rfl

/-! ## One bus changed -/

theorem toNat_ne {b c : BitVec 8} (h : b ≠ c) : b.toNat ≠ c.toNat := fun e => h (BitVec.eq_of_toNat_eq e)

theorem State.device_isSome {s : State} {b : BitVec 8} (h : b.toNat < s.numBuses) : ∃ d, s.device b = some d :=
  ⟨(s.buses[b.toNat]'h).dev, by rw [State.device, List.getElem?_eq_getElem (show b.toNat < s.buses.length from h)]; rfl⟩

theorem State.lt_of_device {s : State} {b : BitVec 8} {d : Device} (h : s.device b = some d) : b.toNat < s.numBuses := by
  by_contra hb
  rw [State.device, List.getElem?_eq_none (by simpa [State.numBuses] using hb)] at h
  simp at h

theorem State.memByte_of_device {s : State} {b : BitVec 8} {d : Device} (h : s.device b = some d) (a : Nat) :
    s.memByte b a = Memory.read d.mem a := by simp [State.memByte, h]

@[simp] theorem State.onDevice_device (b : BitVec 8) (f : Device → Device) :
    (s.onDevice b f).device b = (s.device b).map f := by
  simp only [State.device, State.onDevice, State.onBus, List.getElem?_modify_eq]
  cases s.buses[b.toNat]? <;> rfl

theorem State.onDevice_device_ne {b c : BitVec 8} (h : c ≠ b) (f : Device → Device) :
    (s.onDevice b f).device c = s.device c := by
  simp [State.device, State.onDevice, State.onBus, (toNat_ne h).symm]

@[simp] theorem State.onDevice_chipSelect (b c : BitVec 8) (f : Device → Device) :
    (s.onDevice b f).chipSelect c = s.chipSelect c := by
  simp only [State.chipSelect, State.onDevice, State.onBus, List.getElem?_modify]
  cases s.buses[c.toNat]? <;> simp; split <;> rfl

@[simp] theorem State.onBus_numBuses (b : BitVec 8) (f : BusUnit → BusUnit) : (s.onBus b f).numBuses = s.numBuses := by
  simp [State.numBuses, State.onBus]

@[simp] theorem State.onDevice_numBuses (b : BitVec 8) (f : Device → Device) : (s.onDevice b f).numBuses = s.numBuses :=
  s.onBus_numBuses b _

@[simp] theorem State.setCs_device (b c : BitVec 8) (v : Bool) : (s.setCs b v).device c = s.device c := by
  simp only [State.device, State.setCs, State.onBus, List.getElem?_modify]
  cases s.buses[c.toNat]? <;> simp; split <;> rfl

@[simp] theorem State.setCs_chipSelect (b : BitVec 8) (v : Bool) :
    (s.setCs b v).chipSelect b = (s.chipSelect b).map fun _ => v := by
  simp only [State.chipSelect, State.setCs, State.onBus, List.getElem?_modify_eq]
  cases s.buses[b.toNat]? <;> rfl

theorem State.setCs_chipSelect_ne {b c : BitVec 8} (h : c ≠ b) (v : Bool) :
    (s.setCs b v).chipSelect c = s.chipSelect c := by
  simp [State.chipSelect, State.setCs, State.onBus, (toNat_ne h).symm]

@[simp] theorem State.setCs_numBuses (b : BitVec 8) (v : Bool) : (s.setCs b v).numBuses = s.numBuses :=
  s.onBus_numBuses b _

@[simp] theorem State.passTime_device (ms : Nat) (b : BitVec 8) :
    (s.passTime ms).device b = (s.device b).map (Device.passTime ms) := by
  simp only [State.device, State.passTime, List.getElem?_map]
  cases s.buses[b.toNat]? <;> rfl

@[simp] theorem State.passTime_chipSelect (ms : Nat) (b : BitVec 8) : (s.passTime ms).chipSelect b = s.chipSelect b := by
  simp only [State.chipSelect, State.passTime, List.getElem?_map]
  cases s.buses[b.toNat]? <;> rfl

@[simp] theorem State.passTime_numBuses (ms : Nat) : (s.passTime ms).numBuses = s.numBuses := by
  simp [State.numBuses, State.passTime]

/-! ## The events at the device of the request's bus -/

@[simp] theorem State.select_device : s.select.device s.reqBus = (s.device s.reqBus).map Device.onSelect := by
  simp [State.select, State.deviceSelect]

theorem State.select_device_ne {c : BitVec 8} (h : c ≠ s.reqBus) : s.select.device c = s.device c := by
  simp [State.select, State.deviceSelect, State.onDevice_device_ne _ h]

@[simp] theorem State.select_chipSelect : s.select.chipSelect s.reqBus = (s.chipSelect s.reqBus).map fun _ => true := by
  simp [State.select, State.deviceSelect]

theorem State.select_chipSelect_ne {c : BitVec 8} (h : c ≠ s.reqBus) : s.select.chipSelect c = s.chipSelect c := by
  simp [State.select, State.deviceSelect, State.setCs_chipSelect_ne _ h]

@[simp] theorem State.select_numBuses : s.select.numBuses = s.numBuses := by
  simp [State.select, State.deviceSelect]

@[simp] theorem State.deselect_device :
    s.deselect.device s.reqBus = (s.device s.reqBus).map (Device.onDeselect s.par s.draws) := by
  simp only [State.deselect, State.record_device, State.deviceDeselect, State.drew_device]
  rw [State.onDevice_device, State.setCs_device]
  rfl

theorem State.deselect_device_ne {c : BitVec 8} (h : c ≠ s.reqBus) : s.deselect.device c = s.device c := by
  simp [State.deselect, State.deviceDeselect, State.onDevice_device_ne _ h]

@[simp] theorem State.deselect_chipSelect :
    s.deselect.chipSelect s.reqBus = (s.chipSelect s.reqBus).map fun _ => false := by
  simp [State.deselect, State.deviceDeselect]

theorem State.deselect_chipSelect_ne {c : BitVec 8} (h : c ≠ s.reqBus) : s.deselect.chipSelect c = s.chipSelect c := by
  simp [State.deselect, State.deviceDeselect, State.setCs_chipSelect_ne _ h]

@[simp] theorem State.deselect_numBuses : s.deselect.numBuses = s.numBuses := by
  simp [State.deselect, State.deviceDeselect]

@[simp] theorem State.dropTx_device (b : BitVec 8) : s.dropTx.device b = s.device b := rfl
@[simp] theorem State.dropTx_chipSelect (b : BitVec 8) : s.dropTx.chipSelect b = s.chipSelect b := rfl
@[simp] theorem State.dropTx_numBuses : s.dropTx.numBuses = s.numBuses := rfl
@[simp] theorem State.dropRx_device (b : BitVec 8) : s.dropRx.device b = s.device b := rfl
@[simp] theorem State.dropRx_chipSelect (b : BitVec 8) : s.dropRx.chipSelect b = s.chipSelect b := rfl
@[simp] theorem State.dropRx_numBuses : s.dropRx.numBuses = s.numBuses := rfl

@[simp] theorem State.transmit_device :
    s.transmit.device s.reqBus = (s.device s.reqBus).map (Device.onTx s.staged s.nextTx) := by
  simp [State.transmit, State.deviceTx]

theorem State.transmit_device_ne {c : BitVec 8} (h : c ≠ s.reqBus) : s.transmit.device c = s.device c := by
  simp [State.transmit, State.deviceTx, State.onDevice_device_ne _ h]

@[simp] theorem State.transmit_chipSelect (c : BitVec 8) : s.transmit.chipSelect c = s.chipSelect c := by
  simp [State.transmit, State.deviceTx]

@[simp] theorem State.transmit_numBuses : s.transmit.numBuses = s.numBuses := by
  simp [State.transmit, State.deviceTx]

@[simp] theorem State.receive_device (n : Nat) :
    (s.receive n).device s.reqBus = (s.device s.reqBus).map fun d => if s.nextRx n = n then d.onRx n else d := by
  simp [State.receive, State.deviceRx]

theorem State.receive_device_ne {c : BitVec 8} (h : c ≠ s.reqBus) (n : Nat) : (s.receive n).device c = s.device c := by
  simp [State.receive, State.deviceRx, State.onDevice_device_ne _ h]

@[simp] theorem State.receive_chipSelect (n : Nat) (c : BitVec 8) : (s.receive n).chipSelect c = s.chipSelect c := by
  simp [State.receive, State.deviceRx]

@[simp] theorem State.receive_numBuses (n : Nat) : (s.receive n).numBuses = s.numBuses := by
  simp [State.receive, State.deviceRx]

@[simp] theorem State.delay_device (ms : Nat) (b : BitVec 8) :
    (s.delay ms).device b = (s.device b).map (Device.passTime ms) := by simp [State.delay]

@[simp] theorem State.delay_chipSelect (ms : Nat) (b : BitVec 8) : (s.delay ms).chipSelect b = s.chipSelect b := by
  simp [State.delay]

@[simp] theorem State.delay_numBuses (ms : Nat) : (s.delay ms).numBuses = s.numBuses := by simp [State.delay]

/-! ## Answers and staged bytes -/

theorem State.nextTx_cons {s : State} {ok : Bool} {rest : List Bool} (h : s.txAnswers = ok :: rest) : s.nextTx = ok := by
  simp [State.nextTx, h]

theorem State.nextRx_cons {s : State} {c n : Nat} {rest : List Nat} (h : s.rxAnswers = c :: rest) :
    s.nextRx n = min c n := by simp [State.nextRx, h]

/-- A receive exchange never delivers more than was asked (60_exceptions.md R250). -/
theorem State.nextRx_le (n : Nat) : s.nextRx n ≤ n := by
  unfold State.nextRx; split <;> exact Nat.min_le_right _ _

@[simp] theorem length_anyBytes (k n : Nat) : (anyBytes k n).length = n := by simp [anyBytes]

theorem Device.length_output (par : Config.Params) (k n : Nat) (d : Device) : (d.output par k n).length = n := by
  unfold Device.output
  split
  · exact length_anyBytes k n
  · split
    · exact List.length_replicate
    · split
      · exact length_anyBytes k n
      · exact Memory.length_readRun ..
    · exact length_anyBytes k n

/-- A receive exchange delivers as many bytes as the transport says. -/
@[simp] theorem State.length_rxBytes (b : BitVec 8) (n : Nat) : (s.rxBytes b n).length = s.nextRx n := by
  unfold State.rxBytes
  split
  · rename_i h
    split
    · rw [Device.length_output, h]
    · rw [length_anyBytes, h]
  · exact length_anyBytes _ _

theorem overwritePrefix_take (buf xs : List (BitVec 8)) : (overwritePrefix buf xs).take xs.length = xs := by
  simp [overwritePrefix]

/-- What is staged is what was put there, whatever STAGE held before (10_state.md R36). -/
@[simp] theorem State.stageBytes_staged (xs : List (BitVec 8)) : (s.stageBytes xs).staged = xs :=
  overwritePrefix_take s.stage xs

/-- A chunk is never longer than the rest of its page (41_page_write.md R142). -/
theorem chunkLength_le_page (a r : Nat) : chunkLength a r ≤ pageRemaining a := by
  unfold chunkLength; split <;> omega

/-- A chunk is never longer than what is left (41_page_write.md R142). -/
theorem chunkLength_le_rem (a r : Nat) : chunkLength a r ≤ r := by
  unfold chunkLength; split <;> omega

/-- `page_remaining` is in `1..PAGE_SIZE` (41_page_write.md R141). -/
theorem pageRemaining_bounds (a : Nat) : 1 ≤ pageRemaining a ∧ pageRemaining a ≤ Config.pageSize := by
  unfold pageRemaining
  have : a % Config.pageSize < Config.pageSize := Nat.mod_lt _ (by decide)
  omega

end Sys2Proof.Machine
end

