-- ==== Sys2Proof/Laws/Device.lean ====
section
/-! SUPPORT. What a whole transaction does to the device on its bus (43_device_commands.md R192). -/

namespace Sys2Proof.Machine

/-- High byte first and back (30_encoding.md R93). -/
@[simp] theorem joinAddr_hi8_lo8 (a : BitVec 16) : joinAddr (hi8 a) (lo8 a) = a := by
  apply BitVec.eq_of_toNat_eq
  have := a.isLt
  simp only [joinAddr, hi8, lo8, BitVec.toNat_append, BitVec.extractLsb'_toNat]
  rw [← Nat.shiftLeft_add_eq_or_of_lt (Nat.mod_lt _ (by decide))]
  simp only [Nat.shiftLeft_eq, Nat.shiftRight_eq_div_pow]
  omega

/-! ## The frames the block sends are the encodings of their commands -/

@[simp] theorem decodeFrame_wren : decodeFrame [0x06#8] = .instr .wren := rfl
@[simp] theorem decodeFrame_wrdi : decodeFrame [0x04#8] = .instr .wrdi := rfl
@[simp] theorem decodeFrame_rdsr : decodeFrame [0x05#8] = .instr .rdsr := rfl
@[simp] theorem decodeFrame_wrsr (v : BitVec 8) : decodeFrame [0x01#8, v] = .instr (.wrsr v) := rfl
@[simp] theorem decodeFrame_read (a : BitVec 16) : decodeFrame [0x03#8, hi8 a, lo8 a] = .instr (.readFrame a) :=
  congrArg (fun x => Decoded.instr (.readFrame x)) (joinAddr_hi8_lo8 a)
@[simp] theorem decodeFrame_write (a : BitVec 16) (data : List (BitVec 8)) :
    decodeFrame (0x02#8 :: hi8 a :: lo8 a :: data) = .instr (.writeFrame a data) :=
  congrArg (fun x => Decoded.instr (.writeFrame x data)) (joinAddr_hi8_lo8 a)

/-! ## Transactions -/

/-- A transaction at the device: its chip-select edge, the transmit exchange of `xs` answered `ok`, receive exchanges that leave
the read pointer at `c`, and its Deselect, whose free values begin at `k`. -/
def Device.transaction (par : Config.Params) (k : Nat) (xs : List (BitVec 8)) (ok : Bool) (c : Nat) (d : Device) : Device :=
  Device.onDeselect par k { Device.onTx xs ok d.onSelect with readCount := c }

@[simp] theorem Device.closed_closed (t u : Bool) (d : Device) : (d.closed t).closed u = d.closed u := rfl
@[simp] theorem Device.wip_eq (d : Device) : d.wip = decide (0 < d.wipMs) := rfl

/-- Time passes at a device that is not in a write cycle without effect (43_device_commands.md R205). -/
theorem Device.passTime_eq (ms : Nat) (d : Device) : d.passTime ms = { d with wipMs := d.wipMs - ms } := rfl

/-- A transaction of one receive exchange. -/
theorem Device.transaction_rx (par : Config.Params) (k n : Nat) (xs : List (BitVec 8)) (ok got : Bool) (d : Device) :
    Device.onDeselect par k (if got then (Device.onTx xs ok d.onSelect).onRx n else Device.onTx xs ok d.onSelect) =
      d.transaction par k xs ok (if got then n else 0) := by
  cases got <;> simp [Device.transaction, Device.onRx, Device.onTx, Device.onSelect]

/-- A transaction without receive exchange. -/
theorem Device.transaction_tx (par : Config.Params) (k : Nat) (xs : List (BitVec 8)) (ok : Bool) (d : Device) :
    Device.onDeselect par k (Device.onTx xs ok d.onSelect) = d.transaction par k xs ok 0 := rfl

/-- WREN (43_device_commands.md R194). -/
theorem Device.transaction_wren (par : Config.Params) (k c : Nat) (d : Device) :
    d.transaction par k [0x06#8] true c = { d.closed false with wel := if d.wipMs = 0 then true else d.wel } := by
  by_cases h : d.wipMs = 0
  · simp [Device.transaction, Device.onDeselect, Device.onTx, Device.onSelect, Device.command, Device.doWren, Device.closed, h]
  · simp [Device.transaction, Device.onDeselect, Device.onTx, Device.onSelect, Device.command, Device.doWren, Device.closed, h,
      Nat.pos_of_ne_zero h]

/-- WRDI (43_device_commands.md R196). -/
theorem Device.transaction_wrdi (par : Config.Params) (k c : Nat) (d : Device) :
    d.transaction par k [0x04#8] true c = { d.closed false with wel := if d.wipMs = 0 then false else d.wel } := by
  by_cases h : d.wipMs = 0
  · simp [Device.transaction, Device.onDeselect, Device.onTx, Device.onSelect, Device.command, Device.doWrdi, Device.closed, h]
  · simp [Device.transaction, Device.onDeselect, Device.onTx, Device.onSelect, Device.command, Device.doWrdi, Device.closed, h,
      Nat.pos_of_ne_zero h]

/-- RDSR changes nothing (43_device_commands.md R195, R203). -/
theorem Device.transaction_rdsr (par : Config.Params) (k c : Nat) (ok : Bool) (d : Device) :
    d.transaction par k [0x05#8] ok c = d.closed (!ok) := by
  cases ok <;>
    simp [Device.transaction, Device.onDeselect, Device.onTx, Device.onSelect, Device.command, Device.garbled, Device.closed]

/-- READ changes nothing (43_device_commands.md R198, R203). -/
theorem Device.transaction_read (par : Config.Params) (k c : Nat) (ok : Bool) (a : BitVec 16) (d : Device) :
    d.transaction par k [0x03#8, hi8 a, lo8 a] ok c = d.closed (!ok) := by
  cases ok <;>
    simp [Device.transaction, Device.onDeselect, Device.onTx, Device.onSelect, Device.command, Device.garbled, Device.closed]

/-- WRSR (43_device_commands.md R197). -/
theorem Device.transaction_wrsr (par : Config.Params) (k c : Nat) (v : BitVec 8) (d : Device) :
    d.transaction par k [0x01#8, v] true c = (d.doWrsr par k v).closed false := by
  by_cases h1 : 0 < d.wipMs
  · simp [Device.transaction, Device.onDeselect, Device.onTx, Device.onSelect, Device.command, Device.closed, Device.doWrsr, h1]
  by_cases h2 : d.wel = false
  · simp [Device.transaction, Device.onDeselect, Device.onTx, Device.onSelect, Device.command, Device.closed, Device.doWrsr, h1,
      h2]
  cases hw : d.wpen <;> cases hn : par.wpN <;>
    simp [Device.transaction, Device.onDeselect, Device.onTx, Device.onSelect, Device.command, Device.closed, Device.doWrsr,
      Device.statusLocked, Device.writeStatusBits, h1, h2, hw, hn]

/-- WRITE (43_device_commands.md R199). -/
theorem Device.transaction_write (par : Config.Params) (k c : Nat) (a : BitVec 16) (data : List (BitVec 8)) (d : Device) :
    d.transaction par k ([0x02#8, hi8 a, lo8 a] ++ data) true c = (d.doWrite par k a data).closed false := by
  by_cases h1 : 0 < d.wipMs
  · simp [Device.transaction, Device.onDeselect, Device.onTx, Device.onSelect, Device.command, Device.closed, Device.doWrite, h1]
  by_cases h2 : d.wel = false
  · simp [Device.transaction, Device.onDeselect, Device.onTx, Device.onSelect, Device.command, Device.closed, Device.doWrite, h1,
      h2]
  by_cases h3 : data = []
  · simp [Device.transaction, Device.onDeselect, Device.onTx, Device.onSelect, Device.command, Device.closed, Device.doWrite, h1,
      h2, h3]
  by_cases h4 : d.protects par (devicePageBase par a) = true
  · simp_all [Device.transaction, Device.onDeselect, Device.onTx, Device.onSelect, Device.command, Device.closed, Device.doWrite,
      Device.protects]
  · simp_all [Device.transaction, Device.onDeselect, Device.onTx, Device.onSelect, Device.command, Device.closed, Device.doWrite,
      Device.protects]

/-- A frame one of whose exchanges failed (43_device_commands.md R203). -/
theorem Device.transaction_garbled (par : Config.Params) (k c : Nat) (xs : List (BitVec 8)) (d : Device) :
    d.transaction par k xs false c =
      (Device.garbled par k { Device.onTx xs false d.onSelect with readCount := c }).closed true := by
  simp only [Device.transaction, Device.onDeselect, Device.onTx, Device.onSelect, Device.garbled, Device.closed, List.nil_append,
    Bool.not_false, Bool.or_true, if_true]
  split <;> rfl

theorem anyCycle_cases (par : Config.Params) (k : Nat) : anyCycle par k = 0 ∨ anyCycle par k = par.tWcDevice := by
  unfold anyCycle; split <;> simp

/-- A garbled frame never touches an address outside the page its WRITE frame names (43_device_commands.md R203). -/
theorem Device.garbled_mem (par : Config.Params) (k : Nat) (d : Device) (x : Nat)
    (h : ∀ a data, decodeFrame d.frame = .instr (.writeFrame a data) →
      x < devicePageBase par a ∨ devicePageBase par a + Config.pageSize ≤ x) :
    Memory.read (d.garbled par k).mem x = Memory.read d.mem x := by
  unfold Device.garbled
  split
  · rfl
  · rfl
  · rfl
  · rename_i a data hd
    exact Memory.read_writePage_outside (h a data hd) 0 _ _
  · rfl

/-- A frame that ends at a Deselect with TAINT = 1 changes only what R203 lists for its command. -/
theorem Device.onDeselect_mayFollowFailed (par : Config.Params) (k : Nat) {d : Device} (hs : d.selected = true) :
    d.MayFollowFailed par (Device.onDeselect par k { d with taint := true }) := by
  unfold Device.MayFollowFailed
  simp only [Device.onDeselect, hs, if_true, Device.garbled]
  cases decodeFrame d.frame with
  | rejected e => exact ⟨rfl, rfl, rfl, rfl, rfl, rfl⟩
  | instr i =>
    cases i with
    | wren => exact ⟨_, rfl, rfl, rfl, rfl, rfl, rfl⟩
    | wrdi => exact ⟨_, rfl, rfl, rfl, rfl, rfl, rfl⟩
    | wrsr v => exact ⟨_, _, _, _, _, anyCycle_cases par (k + 1), rfl, rfl, rfl, rfl, rfl, rfl⟩
    | writeFrame a data =>
      exact ⟨_, _, _, anyCycle_cases par (k + 1), ⟨rfl, rfl, rfl, rfl, rfl, rfl⟩,
        fun x hx => Memory.read_writePage_outside hx _ _ _⟩
    | _ => exact ⟨rfl, rfl, rfl, rfl, rfl, rfl⟩

/-- The page of an in-range address ends inside the array (00_scope.md R9). -/
theorem devicePage_in {par : Config.Params} (h : par.Legal) (a : BitVec 16) :
    devicePageBase par a + Config.pageSize ≤ par.deviceSize := by
  obtain ⟨h1, -, h3⟩ := h
  unfold devicePageBase
  simp only [Config.pageSize] at *
  have : a.toNat % par.deviceSize < par.deviceSize := Nat.mod_lt _ (by omega)
  omega

/-- Below DEVICE_SIZE the device uses the address as it is (43_device_commands.md R204). -/
theorem devicePage_of_lt {par : Config.Params} {a : BitVec 16} (h : a.toNat < par.deviceSize) :
    devicePageBase par a = a.toNat - a.toNat % Config.pageSize ∧ devicePageOffset par a = a.toNat % Config.pageSize := by
  simp [devicePageBase, devicePageOffset, Nat.mod_eq_of_lt h]

/-- Protection covers everything from some address up (43_device_commands.md R200). -/
theorem Device.protects_mono {par : Config.Params} {d : Device} {a b : Nat} (hab : a ≤ b) (h : d.protects par a = true) :
    d.protects par b = true := by
  unfold Device.protects at *
  split <;> simp_all <;> omega

end Sys2Proof.Machine
end

