-- ==== Sys2Proof/Laws/Bench.lean ====
section
/-! SUPPORT. What a frame driven directly at a device does (log entry 13): to that device, and to everything else. -/

namespace Sys2Proof.Machine

/-- The receive exchanges move the read pointer of the device on their bus and nothing else of any bus. -/
theorem benchReceive_buses (b : BitVec 8) : ∀ (rxs : List Nat) (s : State),
    (∃ m, (benchReceive b rxs s).device b = (s.device b).map fun d => { d with readCount := d.readCount + m }) ∧
    (∀ c, c ≠ b → (benchReceive b rxs s).device c = s.device c) ∧
    (∀ c, (benchReceive b rxs s).chipSelect c = s.chipSelect c)
  | [], s => ⟨⟨0, by rw [benchReceive]; cases s.device b <;> rfl⟩, fun _ _ => rfl, fun _ => rfl⟩
  | n :: rest, s => by
    obtain ⟨⟨m, h1⟩, h2, h3⟩ := benchReceive_buses b rest { s.deviceRx b n with benchGot := s.benchGot ++ [s.rxBytes b n] }
    have e : (s.deviceRx b n).device b = (s.device b).map fun d => if s.nextRx n = n then d.onRx n else d := by
      simp [State.deviceRx]
    refine ⟨⟨(if s.nextRx n = n then n else 0) + m, ?_⟩, fun c hc => ?_, fun c => ?_⟩
    · rw [benchReceive, h1]
      refine (congrArg _ e).trans ?_
      cases s.device b <;> simp [Device.onRx]
      split <;> simp [Nat.add_assoc]
    · rw [benchReceive, h2 c hc]
      exact (show (s.deviceRx b n).device c = s.device c by simp [State.deviceRx, State.onDevice_device_ne _ hc])
    · rw [benchReceive, h3 c]
      exact (show (s.deviceRx b n).chipSelect c = s.chipSelect c by simp [State.deviceRx])

/-- The receive exchanges write nothing but the buses, DRAWS, the receive answers and BENCH_GOT. -/
theorem benchReceive_rest (b : BitVec 8) : ∀ (rxs : List Nat) (s : State), ∃ bs k rx got,
    benchReceive b rxs s = { s with buses := bs, draws := k, rxAnswers := rx, benchGot := got }
  | [], _ => ⟨_, _, _, _, rfl⟩
  | n :: rest, s => by
    obtain ⟨bs, k, rx, got, h⟩ := benchReceive_rest b rest { s.deviceRx b n with benchGot := s.benchGot ++ [s.rxBytes b n] }
    exact ⟨bs, k, rx, got, h⟩

/-- One receive exchange, with what it delivers kept. -/
def benchReceiveOne (b : BitVec 8) (n : Nat) (s : State) : State :=
  { s.deviceRx b n with benchGot := s.benchGot ++ [s.rxBytes b n] }

theorem benchReceive_cons (b : BitVec 8) (n : Nat) (rest : List Nat) (s : State) :
    benchReceive b (n :: rest) s = benchReceive b rest (benchReceiveOne b n s) := rfl

theorem benchReceiveOne_par (b : BitVec 8) (n : Nat) (s : State) : (benchReceiveOne b n s).par = s.par := rfl

theorem benchReceiveOne_device (b : BitVec 8) (n : Nat) (s : State) {d : Device} (h : s.device b = some d) :
    (benchReceiveOne b n s).device b = some { d with readCount := d.readCount + if s.nextRx n = n then n else 0 } := by
  have e : (s.deviceRx b n).device b = (s.device b).map fun d => if s.nextRx n = n then d.onRx n else d := by
    simp [State.deviceRx]
  refine (show (benchReceiveOne b n s).device b = (s.deviceRx b n).device b from rfl).trans (e.trans ?_)
  rw [h, Option.map_some]
  split <;> rfl

/-- Each receive exchange adds to BENCH_GOT the bytes the transport delivers (60_exceptions.md R250). -/
theorem benchReceive_delivered (b : BitVec 8) : ∀ (rxs : List Nat) (s : State), ∃ got,
    (benchReceive b rxs s).benchGot = s.benchGot ++ got ∧ Delivered rxs s.rxAnswers got
  | [], s => ⟨[], by simp [benchReceive], rfl, by simp⟩
  | n :: rest, s => by
    obtain ⟨got, h1, h2, h3⟩ := benchReceive_delivered b rest (benchReceiveOne b n s)
    refine ⟨s.rxBytes b n :: got, ?_, by simp [h2], ?_⟩
    · rw [benchReceive_cons, h1]
      simp [benchReceiveOne]
    · intro k m hk
      cases k with
      | zero =>
        obtain rfl : n = m := by simpa using hk
        refine ⟨_, rfl, by rw [State.length_rxBytes]; exact s.nextRx_le n, fun c hc => ?_⟩
        cases hx : s.rxAnswers with
        | nil => simp [hx] at hc
        | cons c' rest' =>
          obtain rfl : c' = c := by simpa [hx] using hc
          rw [State.length_rxBytes, State.nextRx_cons hx]
      | succ k =>
        obtain ⟨xs, q1, q2, q3⟩ := h3 k m (by simpa using hk)
        refine ⟨xs, by simpa using q1, q2, fun c hc => q3 c ?_⟩
        show s.rxAnswers.tail[k]? = some c
        simpa [List.getElem?_tail] using hc

/-- A successful receive exchange delivers the device's output, with the read pointer moved by some bytes, and by exactly those
asked before it when the exchanges before it were successful too (43_device_commands.md R192, R198). -/
theorem benchReceive_output (b : BitVec 8) : ∀ (rxs : List Nat) (s : State) (d : Device), s.device b = some d →
    ∃ got, (benchReceive b rxs s).benchGot = s.benchGot ++ got ∧
      ∀ (k n : Nat) (xs : List (BitVec 8)), rxs[k]? = some n → got[k]? = some xs → xs.length = n →
        ∃ m i, xs = { d with readCount := d.readCount + m }.output s.par i n ∧
          ((∀ j, j < k → (got[j]?).map List.length = rxs[j]?) → m = (rxs.take k).sum)
  | [], s, _, _ => ⟨[], by simp [benchReceive], by simp⟩
  | n :: rest, s, d, hd => by
    obtain ⟨got, h1, h2⟩ := benchReceive_output b rest (benchReceiveOne b n s) _ (benchReceiveOne_device b n s hd)
    refine ⟨s.rxBytes b n :: got, by rw [benchReceive_cons, h1]; simp [benchReceiveOne], ?_⟩
    intro k n' xs hk hx hl
    cases k with
    | zero =>
      obtain rfl : n = n' := by simpa using hk
      obtain rfl : s.rxBytes b n = xs := by simpa using hx
      rw [State.length_rxBytes] at hl
      exact ⟨0, s.draws + 1, by rw [State.rxBytes, if_pos hl, hd]; rfl, fun _ => rfl⟩
    | succ k =>
      obtain ⟨m, i, e1, e2⟩ := h2 k n' xs (by simpa using hk) (by simpa using hx) hl
      refine ⟨(if s.nextRx n = n then n else 0) + m, i, ?_, fun hj => ?_⟩
      · rw [e1, benchReceiveOne_par, ← Nat.add_assoc]
      · have h0 : s.nextRx n = n := by simpa [State.length_rxBytes] using hj 0 (by omega)
        rw [e2 fun j hjk => by simpa using hj (j + 1) (by omega), if_pos h0]
        simp

/-- The chip-select edge and the transmit exchange of a direct frame. -/
def benchOpen (bytes : List (BitVec 8)) (s : State) : State :=
  benchTransmit s.benchBus bytes ({ s with benchGot := [] }.deviceSelect s.benchBus)

theorem benchOpen_device (bytes : List (BitVec 8)) (s : State) (hb : bytes ≠ []) :
    (benchOpen bytes s).device s.benchBus = (s.device s.benchBus).map fun d => Device.onTx bytes s.nextTx d.onSelect := by
  rw [benchOpen, benchTransmit, if_neg hb, State.deviceTx, State.dropTx_device, State.onDevice_device, State.deviceSelect,
    State.onDevice_device]
  have e : { s with benchGot := [] }.device s.benchBus = s.device s.benchBus := rfl
  cases h : s.device s.benchBus with
  | none => simp [e, h]
  | some d => (simp [e, h]; rfl)

theorem benchOpen_device_ne (bytes : List (BitVec 8)) (s : State) {c : BitVec 8} (h : c ≠ s.benchBus) :
    (benchOpen bytes s).device c = s.device c := by
  have e : ({ s with benchGot := [] }.deviceSelect s.benchBus).device c = s.device c :=
    State.onDevice_device_ne _ h _
  rw [benchOpen, benchTransmit]
  split
  · exact e
  · rw [State.deviceTx, State.dropTx_device, State.onDevice_device_ne _ h, e]

theorem benchOpen_chipSelect (bytes : List (BitVec 8)) (s : State) (c : BitVec 8) :
    (benchOpen bytes s).chipSelect c = s.chipSelect c := by
  have e : ({ s with benchGot := [] }.deviceSelect s.benchBus).chipSelect c = s.chipSelect c :=
    State.onDevice_chipSelect _ _ _ _
  rw [benchOpen, benchTransmit]
  split
  · exact e
  · rw [State.deviceTx, State.dropTx_chipSelect, State.onDevice_chipSelect, e]

/-- The chip-select edge and the transmit exchange write nothing but the buses, DRAWS, the transmit answers and BENCH_GOT. -/
theorem benchOpen_rest (bytes : List (BitVec 8)) (s : State) : ∃ bs k tx,
    benchOpen bytes s = { s with buses := bs, draws := k, txAnswers := tx, benchGot := [] } := by
  rw [benchOpen, benchTransmit]
  split
  · exact ⟨_, _, _, rfl⟩
  · exact ⟨_, _, _, rfl⟩

theorem benchTransaction_eq (bytes : List (BitVec 8)) (s : State) :
    benchTransaction bytes s = (benchReceive s.benchBus s.benchRx (benchOpen bytes s)).deviceDeselect s.benchBus := rfl

/-- The device on BENCH_BUS goes through one transaction. -/
theorem benchTransaction_device (bytes : List (BitVec 8)) (s : State) (hb : bytes ≠ []) :
    ∃ k c, (benchTransaction bytes s).device s.benchBus =
      (s.device s.benchBus).map (Device.transaction s.par k bytes s.nextTx c) := by
  obtain ⟨⟨m, h⟩, -, -⟩ := benchReceive_buses s.benchBus s.benchRx (benchOpen bytes s)
  obtain ⟨bs, k, rx, got, hr⟩ := benchReceive_rest s.benchBus s.benchRx (benchOpen bytes s)
  obtain ⟨bs', k', tx, ho⟩ := benchOpen_rest bytes s
  have hp : (benchReceive s.benchBus s.benchRx (benchOpen bytes s)).par = s.par := by rw [hr, ho]
  refine ⟨(benchReceive s.benchBus s.benchRx (benchOpen bytes s)).draws, m, ?_⟩
  rw [benchTransaction_eq, State.deviceDeselect, State.drew_device, State.onDevice_device, h, benchOpen_device bytes s hb, hp]
  cases s.device s.benchBus with
  | none => rfl
  | some d =>
    simp only [Option.map_some, Device.transaction]
    congr 2
    simp [Device.onTx, Device.onSelect]

theorem benchTransaction_device_ne (bytes : List (BitVec 8)) (s : State) {c : BitVec 8} (h : c ≠ s.benchBus) :
    (benchTransaction bytes s).device c = s.device c := by
  rw [benchTransaction_eq, State.deviceDeselect, State.drew_device, State.onDevice_device_ne _ h,
    (benchReceive_buses _ _ _).2.1 c h, benchOpen_device_ne bytes s h]

theorem benchTransaction_chipSelect (bytes : List (BitVec 8)) (s : State) (c : BitVec 8) :
    (benchTransaction bytes s).chipSelect c = s.chipSelect c := by
  rw [benchTransaction_eq, State.deviceDeselect, State.drew_chipSelect, State.onDevice_chipSelect,
    (benchReceive_buses _ _ _).2.2 c, benchOpen_chipSelect]

/-- What a direct frame receives (60_exceptions.md R250). -/
theorem benchTransaction_delivered (bytes : List (BitVec 8)) (s : State) :
    Delivered s.benchRx s.rxAnswers (benchTransaction bytes s).benchGot := by
  obtain ⟨got, h1, h2⟩ := benchReceive_delivered s.benchBus s.benchRx (benchOpen bytes s)
  obtain ⟨bs, k, tx, ho⟩ := benchOpen_rest bytes s
  have e : (benchTransaction bytes s).benchGot = got := by
    refine (show _ = (benchReceive s.benchBus s.benchRx (benchOpen bytes s)).benchGot from rfl).trans ?_
    rw [h1, ho]
    rfl
  rw [ho] at h2
  rwa [e]

/-- What a successful receive exchange of a direct frame whose transmit exchange succeeded delivers. -/
theorem benchTransaction_output (bytes : List (BitVec 8)) (s : State) (hb : bytes ≠ []) {d : Device}
    (hd : s.device s.benchBus = some d) (k n : Nat) (xs : List (BitVec 8)) (hk : s.benchRx[k]? = some n)
    (hx : (benchTransaction bytes s).benchGot[k]? = some xs) (hl : xs.length = n) :
    ∃ m i, xs = { Device.onTx bytes s.nextTx d.onSelect with readCount := m }.output s.par i n ∧
      ((∀ j, j < k → ((benchTransaction bytes s).benchGot[j]?).map List.length = s.benchRx[j]?) →
        m = (s.benchRx.take k).sum) := by
  have hdev := benchOpen_device bytes s hb
  rw [hd, Option.map_some] at hdev
  obtain ⟨got, h1, h2⟩ := benchReceive_output s.benchBus s.benchRx (benchOpen bytes s) _ hdev
  obtain ⟨bs, q, tx, ho⟩ := benchOpen_rest bytes s
  have e : (benchTransaction bytes s).benchGot = got := by
    refine (show _ = (benchReceive s.benchBus s.benchRx (benchOpen bytes s)).benchGot from rfl).trans ?_
    rw [h1, ho]
    rfl
  have hp : (benchOpen bytes s).par = s.par := by rw [ho]
  rw [e] at hx ⊢
  obtain ⟨m, i, r1, r2⟩ := h2 k n xs hk hx hl
  rw [hp] at r1
  exact ⟨m, i, by simpa [Device.onTx, Device.onSelect] using r1, r2⟩

/-- A direct frame writes nothing but the buses, DRAWS, the transport's answers and BENCH_GOT. -/
theorem benchTransaction_rest (bytes : List (BitVec 8)) (s : State) : ∃ bs k tx rx got,
    benchTransaction bytes s = { s with buses := bs, draws := k, txAnswers := tx, rxAnswers := rx, benchGot := got } := by
  obtain ⟨bs, k, rx, got, hr⟩ := benchReceive_rest s.benchBus s.benchRx (benchOpen bytes s)
  obtain ⟨bs', k', tx, ho⟩ := benchOpen_rest bytes s
  rw [benchTransaction_eq, hr, ho]
  exact ⟨_, _, _, _, _, rfl⟩

end Sys2Proof.Machine
end

