-- ==== Sys2Proof/Laws/PerInstr.lean ====
section
/-! SUPPORT. Laws stated once per instruction. -/

namespace Sys2Proof.Laws

namespace EncodedForm

/-- An instruction's encoding has its format's form: a descriptor with both reserved fields zero (30_encoding.md R100), or a
frame that has its fixed part (R96) and, where the instruction is one of the block's, fits STAGE (00_scope.md R12). -/
def Statement (i : Instr) : Prop :=
  (∃ w, encode i = .descriptor w ∧ (splitDescriptor w).rsv0 = 0 ∧ (splitDescriptor w).rsv1 = 0) ∨
  (∃ op rest, encode i = .frame (op :: rest) ∧ fixedLength op ≤ rest.length + 1 ∧
    (i.wellFormed = true → rest.length + 1 ≤ Config.stageSize))

theorem reservedZero (op : BitVec 3) (bus : BitVec 8) (addr len : BitVec 16) (value : BitVec 8) :
    (splitDescriptor (joinDescriptor (requestFields op bus addr len value))).rsv0 = 0 ∧
    (splitDescriptor (joinDescriptor (requestFields op bus addr len value))).rsv1 = 0 := by
  constructor <;>
    · apply BitVec.eq_of_getLsbD_eq
      intro k hk
      simp only [splitDescriptor, joinDescriptor, requestFields, BitVec.getLsbD_extractLsb', BitVec.getLsbD_append]
      interval_cases k <;> simp

theorem write (bus : BitVec 8) (addr len : BitVec 16) (value : BitVec 8) : Statement (.write bus addr len value) :=
  .inl ⟨_, rfl, reservedZero ..⟩
theorem read (bus : BitVec 8) (addr len : BitVec 16) (value : BitVec 8) : Statement (.read bus addr len value) :=
  .inl ⟨_, rfl, reservedZero ..⟩
theorem readByte (bus : BitVec 8) (addr len : BitVec 16) (value : BitVec 8) : Statement (.readByte bus addr len value) :=
  .inl ⟨_, rfl, reservedZero ..⟩
theorem readStatus (bus : BitVec 8) (addr len : BitVec 16) (value : BitVec 8) : Statement (.readStatus bus addr len value) :=
  .inl ⟨_, rfl, reservedZero ..⟩
theorem writeStatus (bus : BitVec 8) (addr len : BitVec 16) (value : BitVec 8) : Statement (.writeStatus bus addr len value) :=
  .inl ⟨_, rfl, reservedZero ..⟩
theorem wrsr (value : BitVec 8) : Statement (.wrsr value) :=
  .inr ⟨_, _, rfl, show 2 ≤ 1 + 1 by decide, fun _ => show 1 + 1 ≤ 19 by decide⟩
theorem writeFrame (addr : BitVec 16) (data : List (BitVec 8)) : Statement (.writeFrame addr data) := by
  refine .inr ⟨_, _, rfl, ?_, fun h => ?_⟩
  · show 3 ≤ data.length + 2 + 1
    omega
  · have : data.length ≤ 16 := by
      simp only [Instr.wellFormed, Instr.dataFits, Bool.and_eq_true, decide_eq_true_eq] at h
      exact h.1
    show data.length + 2 + 1 ≤ 19
    omega
theorem readFrame (addr : BitVec 16) : Statement (.readFrame addr) :=
  .inr ⟨_, _, rfl, show 3 ≤ 2 + 1 by decide, fun _ => show 2 + 1 ≤ 19 by decide⟩
theorem wrdi : Statement .wrdi := .inr ⟨_, _, rfl, by decide, fun _ => by decide⟩
theorem rdsr : Statement .rdsr := .inr ⟨_, _, rfl, by decide, fun _ => by decide⟩
theorem wren : Statement .wren := .inr ⟨_, _, rfl, by decide, fun _ => by decide⟩

end EncodedForm

end Sys2Proof.Laws
end

