-- ==== Sys2Proof/Laws/Run.lean ====
section
/-! SUPPORT. How lines run: one line, a whole request, and the state each short operation ends in. -/

namespace Sys2Proof.Machine

/-- With no reset coming, a tick is the line (70_reset_and_hazards.md R261). -/
theorem tick_of_noReset {s : State} (h : s.resetIn = none) : tick s = line s := by simp [tick, h]

theorem runLines_idle {s : State} (h : s.phase = .idle) (n : Nat) : runLines n s = .next s := by
  cases n <;> simp [runLines, h]

theorem runLines_tick {s t : State} (h : s.phase ≠ .idle) (ht : tick s = .next t) (n : Nat) :
    runLines (n + 1) s = runLines n t := by
  simp [runLines, h, ht]

/-- One line of a request in progress. -/
theorem runLines_line {s t : State} {p : Phase} (hp : s.phase = p) (hne : p ≠ .idle) (hr : s.resetIn = none)
    (ht : line s = .next t) (n : Nat) : runLines (n + 1) s = runLines n t :=
  runLines_tick (hp ▸ hne) (by rw [tick_of_noReset hr, ht]) n

/-- More lines than a run needs change nothing. -/
theorem runLines_more {n : Nat} : ∀ {s t : State}, runLines n s = .next t → t.phase = .idle → ∀ k, runLines (n + k) s = .next t := by
  induction n with
  | zero =>
    intro s t h hi k
    obtain rfl : s = t := by simpa [runLines] using h
    exact runLines_idle hi _
  | succ n ih =>
    intro s t h hi k
    rw [show n + 1 + k = (n + k) + 1 by omega]
    simp only [runLines] at h ⊢
    split
    · simp_all
    · split
      · rename_i u hu
        simp_all
      · simp_all
      · simp_all

/-- The budget always has room for the nine lines of a short operation. -/
theorem State.lineBudget_eq (s : State) : ∃ k, s.lineBudget = k + 9 := ⟨8 * (s.reqLen.toNat / Config.pageSize) + 15, by
  unfold State.lineBudget; omega⟩

/-! ## DECODE -/

theorem State.accept_descriptorOk (s : State) {op : BitVec 3} (bus : BitVec 8) (addr len : BitVec 16) (value : BitVec 8)
    (hop : op = opWrite ∨ op = opRead ∨ op = opReadByte ∨ op = opReadStatus ∨ op = opWriteStatus) :
    (s.accept (requestFields op bus addr len value)).descriptorOk = true := by
  simp [State.descriptorOk, requestFields, hop]

/-- DECODE lets a request pass (60_exceptions.md R236, R243). -/
theorem lineDecode_pass {s : State} (h1 : s.descriptorOk = true) (h2 : s.busOk = true) (h3 : s.boundsOk = true)
    (h4 : s.bufferFault = none) : lineDecode s = .next s.startOperation := by
  simp [lineDecode, h1, h2, h3, h4]

/-- A request whose checks pass goes on from its operation's first label. -/
theorem runRequest_pass {s : State} {d : Descriptor} (hr : s.resetIn = none) (h1 : (s.accept d).descriptorOk = true)
    (h2 : (s.accept d).busOk = true) (h3 : (s.accept d).boundsOk = true) (h4 : (s.accept d).bufferFault = none) :
    ∃ k, (s.accept d).lineBudget = k + 9 ∧ runRequest d s = runLines (k + 8) (s.accept d).startOperation := by
  obtain ⟨k, hk⟩ := (s.accept d).lineBudget_eq
  refine ⟨k, hk, ?_⟩
  rw [runRequest, hk]
  exact runLines_line (s := s.accept d) (p := .decode) rfl (by decide) hr (by
    show lineDecode (s.accept d) = _
    exact lineDecode_pass h1 h2 h3 h4) (k + 8)

/-- A run of a request that DECODE refuses ends at DECODE. -/
theorem runRequest_raise {s : State} {d : Descriptor} {st : Status} (hr : s.resetIn = none)
    (h : lineDecode (s.accept d) = .next ((s.accept d).raise st)) :
    runRequest d s = .next ((s.accept d).raise st) := by
  obtain ⟨k, hk⟩ := (s.accept d).lineBudget_eq
  rw [runRequest, hk]
  rw [runLines_line (s := s.accept d) (p := .decode) rfl (by decide) hr h]
  exact runLines_idle rfl _

/-! ## The line of each label (10_state.md R32) -/

theorem line_wPlan {s : State} (h : s.phase = .wPlan) : line s = .next (lineWPlan s) := by simp only [line, h]
theorem line_wEnSel {s : State} (h : s.phase = .wEnSel) : line s = .next (lineWEnSel s) := by simp only [line, h]
theorem line_wEnTx {s : State} (h : s.phase = .wEnTx) : line s = .next (lineWEnTx s) := by simp only [line, h]
theorem line_wEnDesel {s : State} (h : s.phase = .wEnDesel) : line s = .next (lineWEnDesel s) := by simp only [line, h]
theorem line_wSel {s : State} (h : s.phase = .wSel) : line s = .next (lineWSel s) := by simp only [line, h]
theorem line_wTx {s : State} (h : s.phase = .wTx) : line s = lineWTx s := by simp only [line, h]
theorem line_wDesel {s : State} (h : s.phase = .wDesel) : line s = .next (lineWDesel s) := by simp only [line, h]
theorem line_wDelay {s : State} (h : s.phase = .wDelay) : line s = .next (lineWDelay s) := by simp only [line, h]
theorem line_rSel {s : State} (h : s.phase = .rSel) : line s = .next (lineRSel s) := by simp only [line, h]
theorem line_rCmd {s : State} (h : s.phase = .rCmd) : line s = .next (lineRCmd s) := by simp only [line, h]
theorem line_rData {s : State} (h : s.phase = .rData) : line s = lineRData s := by simp only [line, h]
theorem line_rDesel {s : State} (h : s.phase = .rDesel) : line s = .next (lineRDesel s) := by simp only [line, h]
theorem line_rDelay {s : State} (h : s.phase = .rDelay) : line s = .next (lineRDelay s) := by simp only [line, h]
theorem line_sSel {s : State} (h : s.phase = .sSel) : line s = .next (lineSSel s) := by simp only [line, h]
theorem line_sCmd {s : State} (h : s.phase = .sCmd) : line s = .next (lineSCmd s) := by simp only [line, h]
theorem line_sData {s : State} (h : s.phase = .sData) : line s = .next (lineSData s) := by simp only [line, h]
theorem line_sDesel {s : State} (h : s.phase = .sDesel) : line s = .next (lineSDesel s) := by simp only [line, h]
theorem line_wsEnSel {s : State} (h : s.phase = .wsEnSel) : line s = .next (lineWsEnSel s) := by simp only [line, h]
theorem line_wsEnTx {s : State} (h : s.phase = .wsEnTx) : line s = .next (lineWsEnTx s) := by simp only [line, h]
theorem line_wsEnDesel {s : State} (h : s.phase = .wsEnDesel) : line s = .next (lineWsEnDesel s) := by simp only [line, h]
theorem line_wsSel {s : State} (h : s.phase = .wsSel) : line s = .next (lineWsSel s) := by simp only [line, h]
theorem line_wsTx {s : State} (h : s.phase = .wsTx) : line s = .next (lineWsTx s) := by simp only [line, h]
theorem line_wsDesel {s : State} (h : s.phase = .wsDesel) : line s = .next (lineWsDesel s) := by simp only [line, h]
theorem line_wsDelay {s : State} (h : s.phase = .wsDelay) : line s = .next (lineWsDelay s) := by simp only [line, h]
theorem line_decode {s : State} (h : s.phase = .decode) : line s = lineDecode s := by simp only [line, h]

/-! ## The short operations, from their first label to their end -/

/-- READ_STATUS's four lines. -/
theorem runLines_readStatus {s : State} (hp : s.phase = .sSel) (hr : s.resetIn = none) (k : Nat) :
    runLines (k + 4) s = .next (lineSDesel (lineSData (lineSCmd (lineSSel s)))) := by
  rw [runLines_line hp (by decide) hr (line_sSel hp),
    runLines_line (s := lineSSel s) (p := .sCmd) rfl (by decide) hr (line_sCmd rfl),
    runLines_line (s := lineSCmd (lineSSel s)) (p := .sData) rfl (by decide) hr (line_sData rfl),
    runLines_line (s := lineSData (lineSCmd (lineSSel s))) (p := .sDesel) rfl (by decide) hr (line_sDesel rfl)]
  refine runLines_idle ?_ k
  unfold lineSDesel
  split <;> rfl

/-- The state after the WREN transaction of WRITE_STATUS. -/
def afterWsEnable (s : State) : State := lineWsEnDesel (lineWsEnTx (lineWsEnSel s))

/-- WRITE_STATUS's seven lines. -/
theorem runLines_writeStatus {s : State} (hp : s.phase = .wsEnSel) (hr : s.resetIn = none) (k : Nat) :
    runLines (k + 7) s = .next
      (if (lineWsTx (lineWsSel (afterWsEnable s))).xferOk
        then lineWsDelay (lineWsDesel (lineWsTx (lineWsSel (afterWsEnable s))))
        else lineWsDesel (lineWsTx (lineWsSel (afterWsEnable s)))) := by
  rw [runLines_line hp (by decide) hr (line_wsEnSel hp),
    runLines_line (s := lineWsEnSel s) (p := .wsEnTx) rfl (by decide) hr (line_wsEnTx rfl),
    runLines_line (s := lineWsEnTx (lineWsEnSel s)) (p := .wsEnDesel) rfl (by decide) hr (line_wsEnDesel rfl),
    runLines_line (s := lineWsEnDesel (lineWsEnTx (lineWsEnSel s))) (p := .wsSel) rfl (by decide) hr (line_wsSel rfl),
    runLines_line (s := lineWsSel (lineWsEnDesel (lineWsEnTx (lineWsEnSel s)))) (p := .wsTx) rfl (by decide) hr
      (line_wsTx rfl),
    runLines_line (s := lineWsTx (lineWsSel (lineWsEnDesel (lineWsEnTx (lineWsEnSel s))))) (p := .wsDesel) rfl (by decide) hr
      (line_wsDesel rfl)]
  show runLines (k + 1) (lineWsDesel (lineWsTx (lineWsSel (afterWsEnable s)))) = _
  split
  · rename_i h
    rw [runLines_line (s := lineWsDesel (lineWsTx (lineWsSel (afterWsEnable s)))) (p := .wsDelay) (by unfold lineWsDesel; rw [if_pos h]; rfl) (by decide)
      (by unfold lineWsDesel; rw [if_pos h]; exact hr) (line_wsDelay (by unfold lineWsDesel; rw [if_pos h]; rfl))]
    exact runLines_idle rfl k
  · rename_i h
    exact runLines_idle (by unfold lineWsDesel; rw [if_neg h]; rfl) _

/-- The state of a read after its receive exchange: READ_BYTE. -/
theorem runLines_readByte {s : State} (hp : s.phase = .rSel) (hr : s.resetIn = none) (hop : s.reqOp = opReadByte) (k : Nat) :
    runLines (k + 5) s = runLines (k + 2) (lineRDataByte (lineRCmd (lineRSel s))) := by
  rw [runLines_line hp (by decide) hr (line_rSel hp),
    runLines_line (s := lineRSel s) (p := .rCmd) rfl (by decide) hr (line_rCmd rfl),
    runLines_line (s := lineRCmd (lineRSel s)) (p := .rData) rfl (by decide) hr
      ((line_rData rfl).trans (if_pos (show (lineRCmd (lineRSel s)).reqOp = opReadByte from hop)))]

/-- The state of a read after its receive exchange: READ into a buffer with the room. -/
theorem runLines_read {s t : State} (hp : s.phase = .rSel) (hr : s.resetIn = none) (hop : s.reqOp ≠ opReadByte)
    (ht : lineRDataRun (lineRCmd (lineRSel s)) = .next t) (k : Nat) : runLines (k + 5) s = runLines (k + 2) t := by
  rw [runLines_line hp (by decide) hr (line_rSel hp),
    runLines_line (s := lineRSel s) (p := .rCmd) rfl (by decide) hr (line_rCmd rfl),
    runLines_line (s := lineRCmd (lineRSel s)) (p := .rData) rfl (by decide) hr
      ((line_rData rfl).trans ((if_neg (show ¬ (lineRCmd (lineRSel s)).reqOp = opReadByte from hop)).trans ht))]

/-- The end of a read, from its Deselect on (42_read_engine.md R172, R176, R178). -/
theorem runLines_readEnd {s : State} (hp : s.phase = .rDesel) (hr : s.resetIn = none) (k : Nat) :
    runLines (k + 2) s = .next
      (if s.xferOk = true ∧ s.par.readSettle = true then lineRDelay (lineRDesel s) else lineRDesel s) := by
  rw [runLines_line hp (by decide) hr (line_rDesel hp)]
  by_cases h : s.xferOk = true
  · by_cases h' : s.par.readSettle = true
    · have e : lineRDesel s = s.deselect.goto .rDelay := by simp [lineRDesel, h, h']
      rw [if_pos ⟨h, h'⟩, e, runLines_line (s := s.deselect.goto .rDelay) (p := .rDelay) rfl (by decide) hr (line_rDelay rfl)]
      exact runLines_idle rfl k
    · have e : lineRDesel s = s.deselect.finish .ok s.readValue := by simp [lineRDesel, h, h']
      rw [if_neg (fun c => h' c.2), e]
      exact runLines_idle rfl _
  · have e : lineRDesel s = s.deselect.raise s.readFailure := by simp [lineRDesel, h]
    rw [if_neg (fun c => h c.1), e]
    exact runLines_idle rfl _

end Sys2Proof.Machine
end

