-- ==== Sys2Proof/Laws/Requests.lean ====
section
/-! SUPPORT. Each request that DECODE lets pass, as the composition of its lines; each that it refuses, as its result. -/

namespace Sys2Proof.Machine

/-- The accepted request at its operation's first label (60_exceptions.md R243). -/
def State.started (op : BitVec 3) (p : Phase) (bus : BitVec 8) (addr len : BitVec 16) (value : BitVec 8) (s : State) : State :=
  (s.accept (requestFields op bus addr len value)).goto p

/-- READ_STATUS on a bus that is there. -/
theorem execReadStatus_eq {s : State} {bus : BitVec 8} (addr len : BitVec 16) (value : BitVec 8) (hr : s.resetIn = none)
    (hb : bus.toNat < s.numBuses) :
    execReadStatus bus addr len value s =
      .next (lineSDesel (lineSData (lineSCmd (lineSSel (s.started opReadStatus .sSel bus addr len value))))) := by
  obtain ⟨k, -, h⟩ := runRequest_pass (s := s) (d := requestFields opReadStatus bus addr len value) hr
    (s.accept_descriptorOk bus addr len value (by decide)) (decide_eq_true hb)
    (by simp [State.boundsOk, requestFields, opReadStatus, opWrite, opRead, opReadByte])
    (by simp [State.bufferFault, requestFields, opReadStatus, opWrite, opRead])
  have e : (s.accept (requestFields opReadStatus bus addr len value)).startOperation =
      s.started opReadStatus .sSel bus addr len value := by
    simp [State.started, State.startOperation, requestFields, opReadStatus, opWrite, opRead, opReadByte]
  rw [execReadStatus, h, e]
  exact runLines_readStatus (s := s.started opReadStatus .sSel bus addr len value) rfl hr (k + 4)

/-- WRITE_STATUS on a bus that is there. -/
theorem execWriteStatus_eq {s u : State} {bus : BitVec 8} (addr len : BitVec 16) (value : BitVec 8) (hr : s.resetIn = none)
    (hb : bus.toNat < s.numBuses)
    (hu : lineWsTx (lineWsSel (afterWsEnable (s.started opWriteStatus .wsEnSel bus addr len value))) = u) :
    execWriteStatus bus addr len value s =
      .next (if u.xferOk then lineWsDelay (lineWsDesel u) else lineWsDesel u) := by
  obtain ⟨k, -, h⟩ := runRequest_pass (s := s) (d := requestFields opWriteStatus bus addr len value) hr
    (s.accept_descriptorOk bus addr len value (by decide)) (decide_eq_true hb)
    (by simp [State.boundsOk, requestFields, opWriteStatus, opWrite, opRead, opReadByte])
    (by simp [State.bufferFault, requestFields, opWriteStatus, opWrite, opRead])
  have e : (s.accept (requestFields opWriteStatus bus addr len value)).startOperation =
      s.started opWriteStatus .wsEnSel bus addr len value := by
    simp [State.started, State.startOperation, requestFields, opWriteStatus, opReadStatus, opWrite, opRead, opReadByte]
  rw [execWriteStatus, h, e, ← hu]
  exact runLines_writeStatus (s := s.started opWriteStatus .wsEnSel bus addr len value) rfl hr (k + 1)

/-- The end of a read, given its state after the receive exchange (42_read_engine.md R172, R176, R178). -/
def readEnd (u : State) : State :=
  if u.xferOk = true ∧ u.par.readSettle = true then lineRDelay (lineRDesel u) else lineRDesel u

/-- READ_BYTE of an address in the array, on a bus that is there. -/
theorem execReadByte_eq {s : State} {bus : BitVec 8} {addr : BitVec 16} (len : BitVec 16) (value : BitVec 8)
    (hr : s.resetIn = none) (hb : bus.toNat < s.numBuses) (ha : addr.toNat < s.par.deviceSize) :
    execReadByte bus addr len value s =
      .next (readEnd (lineRDataByte (lineRCmd (lineRSel (s.started opReadByte .rSel bus addr len value))))) := by
  obtain ⟨k, -, h⟩ := runRequest_pass (s := s) (d := requestFields opReadByte bus addr len value) hr
    (s.accept_descriptorOk bus addr len value (by decide)) (decide_eq_true hb)
    (decide_eq_true ha)
    (by simp [State.bufferFault, requestFields, opReadByte, opWrite, opRead])
  have e : (s.accept (requestFields opReadByte bus addr len value)).startOperation =
      s.started opReadByte .rSel bus addr len value := by
    simp [State.started, State.startOperation, requestFields, opWrite, opRead, opReadByte]
  rw [execReadByte, h, e]
  exact (runLines_readByte (s := s.started opReadByte .rSel bus addr len value) rfl hr rfl (k + 3)).trans
    (runLines_readEnd (s := lineRDataByte (lineRCmd (lineRSel (s.started opReadByte .rSel bus addr len value)))) rfl hr (k + 3))

/-- READ of a range in the array into a buffer with the room, on a bus that is there. -/
theorem execRead_eq {s u : State} {bus : BitVec 8} {addr len : BitVec 16} (value : BitVec 8)
    (hr : s.resetIn = none) (ha : s.Accepts bus addr.toNat len.toNat) (hd : len.toNat ≤ s.dst.length)
    (hu : lineRDataRun (lineRCmd (lineRSel (s.started opRead .rSel bus addr len value))) = .next u) :
    execRead bus addr len value s = .next (readEnd u) := by
  obtain ⟨k, -, h⟩ := runRequest_pass (s := s) (d := requestFields opRead bus addr len value) hr
    (s.accept_descriptorOk bus addr len value (by decide)) (decide_eq_true ha.1)
    (decide_eq_true ha.2)
    (by simpa [State.bufferFault, requestFields, opReadByte, opWrite, opRead] using hd)
  have e : (s.accept (requestFields opRead bus addr len value)).startOperation =
      s.started opRead .rSel bus addr len value := by
    simp [State.started, State.startOperation, requestFields, opWrite, opRead]
  rw [execRead, h, e]
  refine (runLines_read (s := s.started opRead .rSel bus addr len value) rfl hr (by show opRead ≠ opReadByte; decide) hu
    (k + 3)).trans ?_
  have hph : u.phase = .rDesel ∧ u.resetIn = s.resetIn := by
    unfold lineRDataRun at hu
    revert hu
    dsimp only
    split
    · simp
    · rintro ⟨⟩; exact ⟨rfl, rfl⟩
  exact runLines_readEnd hph.1 (hph.2.trans hr) (k + 3)

/-- The receive line of READ, into a buffer with the room (42_read_engine.md R176, R179). -/
theorem lineRDataRun_eq {s : State} (h : s.reqLen.toNat ≤ s.dst.length) :
    ∃ bytes, bytes.length = s.reqLen.toNat ∧
      (s.nextRx s.reqLen.toNat = s.reqLen.toNat → bytes = s.rxBytes s.reqBus s.reqLen.toNat) ∧
      lineRDataRun s = .next (((((s.receive s.reqLen.toNat).drew
        (if s.nextRx s.reqLen.toNat = s.reqLen.toNat then 0 else s.reqLen.toNat)).setDst (overwritePrefix s.dst bytes)).setXferOk
          (decide (s.nextRx s.reqLen.toNat = s.reqLen.toNat))).goto .rDesel) := by
  refine ⟨if s.nextRx s.reqLen.toNat = s.reqLen.toNat then s.rxBytes s.reqBus s.reqLen.toNat
    else anyBytes (s.receive s.reqLen.toNat).draws s.reqLen.toNat, ?_, fun h => if_pos h, ?_⟩
  · split
    · rename_i h; rw [State.length_rxBytes, h]
    · exact length_anyBytes _ _
  · unfold lineRDataRun
    dsimp only
    rw [storeBytes, if_pos]
    split
    · rename_i h'; rw [State.length_rxBytes, h']; exact h
    · rw [length_anyBytes]; exact h

end Sys2Proof.Machine
end

