-- ==== Sys2Proof/Laws/Transaction.lean ====
section
/-! SUPPORT. One transaction of the block, a frame and its receive phase, as one operation, and the operations of this block
written with it. -/

namespace Sys2Proof.Machine

/-! ## The order of writes to different registers -/

theorem State.goto_goto (s : State) (p q : Phase) : (s.goto p).goto q = s.goto q := rfl
theorem State.select_goto (s : State) (p : Phase) : (s.goto p).select = s.select.goto p := rfl
theorem State.deselect_goto (s : State) (p : Phase) : (s.goto p).deselect = s.deselect.goto p := rfl
theorem State.transmit_goto (s : State) (p : Phase) : (s.goto p).transmit = s.transmit.goto p := rfl
theorem State.stageBytes_goto (s : State) (p : Phase) (xs : List (BitVec 8)) :
    (s.goto p).stageBytes xs = (s.stageBytes xs).goto p := rfl
theorem State.setXferOk_goto (s : State) (p : Phase) (ok : Bool) : (s.goto p).setXferOk ok = (s.setXferOk ok).goto p := rfl
theorem State.deselect_setXferOk (s : State) (ok : Bool) : (s.setXferOk ok).deselect = s.deselect.setXferOk ok := rfl
theorem State.raise_goto (s : State) (p : Phase) (st : Status) : (s.goto p).raise st = s.raise st := rfl
theorem State.delay_goto (s : State) (p : Phase) (ms : Nat) : (s.goto p).delay ms = (s.delay ms).goto p := rfl
theorem State.finish_goto (s : State) (p : Phase) (st : Status) (v : BitVec 8) : (s.goto p).finish st v = s.finish st v := rfl

/-! ## A transaction that transmits one frame -/

/-- Select, Tx of a staged frame, Deselect. -/
def State.sendFrame (xs : List (BitVec 8)) (s : State) : State := (s.select.stageBytes xs).transmit.deselect

variable (s : State) (xs : List (BitVec 8))

theorem State.sendFrame_device :
    (s.sendFrame xs).device s.reqBus = (s.device s.reqBus).map fun d =>
      d.transaction s.par (s.select.stageBytes xs).transmit.draws xs s.nextTx 0 := by
  have h3 := State.transmit_device (s.select.stageBytes xs)
  have h4 := (s.select.stageBytes xs).transmit.deselect_device
  rw [show (s.select.stageBytes xs).transmit.reqBus = (s.select.stageBytes xs).reqBus from rfl, h3, State.stageBytes_staged] at h4
  rw [show (s.select.stageBytes xs).device (s.select.stageBytes xs).reqBus = s.select.device s.reqBus from rfl,
    State.select_device] at h4
  rw [State.sendFrame]
  refine h4.trans ?_
  cases s.device s.reqBus <;> rfl

theorem State.sendFrame_device_ne {c : BitVec 8} (h : c ≠ s.reqBus) : (s.sendFrame xs).device c = s.device c := by
  rw [State.sendFrame, State.deselect_device_ne _ (by exact h), State.transmit_device_ne _ (by exact h), State.stageBytes_device,
    State.select_device_ne _ h]

theorem State.sendFrame_chipSelect : (s.sendFrame xs).chipSelect s.reqBus = (s.chipSelect s.reqBus).map fun _ => false := by
  have h := (s.select.stageBytes xs).transmit.deselect_chipSelect
  rw [State.sendFrame]
  refine h.trans ?_
  rw [State.transmit_chipSelect, State.stageBytes_chipSelect]
  refine (congrArg _ s.select_chipSelect).trans ?_
  cases s.chipSelect s.reqBus <;> rfl

theorem State.sendFrame_chipSelect_ne {c : BitVec 8} (h : c ≠ s.reqBus) :
    (s.sendFrame xs).chipSelect c = s.chipSelect c := by
  rw [State.sendFrame, State.deselect_chipSelect_ne _ (by exact h), State.transmit_chipSelect, State.stageBytes_chipSelect,
    State.select_chipSelect_ne _ h]

@[simp] theorem State.sendFrame_trace :
    (s.sendFrame xs).trace = s.trace ++ [.select s.reqBus, .tx s.reqBus xs s.nextTx, .deselect s.reqBus] := by
  simp [State.sendFrame]

@[simp] theorem State.sendFrame_txAnswers : (s.sendFrame xs).txAnswers = s.txAnswers.tail := by simp [State.sendFrame]
@[simp] theorem State.sendFrame_numBuses : (s.sendFrame xs).numBuses = s.numBuses := by simp [State.sendFrame]
@[simp] theorem State.sendFrame_rxAnswers : (s.sendFrame xs).rxAnswers = s.rxAnswers := by simp [State.sendFrame]
@[simp] theorem State.sendFrame_host : (s.sendFrame xs).host = s.host := by simp [State.sendFrame]
@[simp] theorem State.sendFrame_resetIn : (s.sendFrame xs).resetIn = s.resetIn := by simp [State.sendFrame]
@[simp] theorem State.sendFrame_par : (s.sendFrame xs).par = s.par := by simp [State.sendFrame]
@[simp] theorem State.sendFrame_phase : (s.sendFrame xs).phase = s.phase := by simp [State.sendFrame]
@[simp] theorem State.sendFrame_reqOp : (s.sendFrame xs).reqOp = s.reqOp := by simp [State.sendFrame]
@[simp] theorem State.sendFrame_reqBus : (s.sendFrame xs).reqBus = s.reqBus := by simp [State.sendFrame]
@[simp] theorem State.sendFrame_reqAddr : (s.sendFrame xs).reqAddr = s.reqAddr := by simp [State.sendFrame]
@[simp] theorem State.sendFrame_reqLen : (s.sendFrame xs).reqLen = s.reqLen := by simp [State.sendFrame]
@[simp] theorem State.sendFrame_reqValue : (s.sendFrame xs).reqValue = s.reqValue := by simp [State.sendFrame]
@[simp] theorem State.sendFrame_reqRsv0 : (s.sendFrame xs).reqRsv0 = s.reqRsv0 := by simp [State.sendFrame]
@[simp] theorem State.sendFrame_reqRsv1 : (s.sendFrame xs).reqRsv1 = s.reqRsv1 := by simp [State.sendFrame]
@[simp] theorem State.sendFrame_xferOk : (s.sendFrame xs).xferOk = s.xferOk := by simp [State.sendFrame]
@[simp] theorem State.sendFrame_rxByte : (s.sendFrame xs).rxByte = s.rxByte := by simp [State.sendFrame]
@[simp] theorem State.sendFrame_curAddr : (s.sendFrame xs).curAddr = s.curAddr := by simp [State.sendFrame]
@[simp] theorem State.sendFrame_curOff : (s.sendFrame xs).curOff = s.curOff := by simp [State.sendFrame]
@[simp] theorem State.sendFrame_remLen : (s.sendFrame xs).remLen = s.remLen := by simp [State.sendFrame]
@[simp] theorem State.sendFrame_pageRem : (s.sendFrame xs).pageRem = s.pageRem := by simp [State.sendFrame]
@[simp] theorem State.sendFrame_chunkLen : (s.sendFrame xs).chunkLen = s.chunkLen := by simp [State.sendFrame]
@[simp] theorem State.sendFrame_posted : (s.sendFrame xs).posted = s.posted := by simp [State.sendFrame]
@[simp] theorem State.sendFrame_src : (s.sendFrame xs).src = s.src := by simp [State.sendFrame]
@[simp] theorem State.sendFrame_dst : (s.sendFrame xs).dst = s.dst := by simp [State.sendFrame]
@[simp] theorem State.sendFrame_benchBus : (s.sendFrame xs).benchBus = s.benchBus := by simp [State.sendFrame]
@[simp] theorem State.sendFrame_benchRx : (s.sendFrame xs).benchRx = s.benchRx := by simp [State.sendFrame]
@[simp] theorem State.sendFrame_benchGot : (s.sendFrame xs).benchGot = s.benchGot := by simp [State.sendFrame]

/-- A frame always leaves the device on its bus closed (43_device_commands.md R192). -/
theorem Device.transaction_closed (par : Config.Params) (k c : Nat) (ok : Bool) (d : Device) :
    (d.transaction par k xs ok c).frame = [] ∧ (d.transaction par k xs ok c).selected = false := ⟨rfl, rfl⟩

/-! ## WRITE_STATUS and one chunk of WRITE, written with it -/

/-- The WREN transaction of WRITE_STATUS. -/
theorem afterWsEnable_eq : afterWsEnable s = (s.sendFrame wrenBytes).goto .wsSel := by
  simp only [afterWsEnable, lineWsEnDesel, lineWsEnTx, lineWsEnSel, State.goto_goto, State.deselect_goto, State.transmit_goto,
    State.stageBytes_goto, State.sendFrame]

/-- The WRSR transaction of WRITE_STATUS and what follows it. -/
theorem writeStatusEnd_eq :
    (if (lineWsTx (lineWsSel s)).xferOk then lineWsDelay (lineWsDesel (lineWsTx (lineWsSel s)))
      else lineWsDesel (lineWsTx (lineWsSel s))) =
    if s.nextTx then (((s.sendFrame (wrsrBytes s.reqValue)).setXferOk s.nextTx).delay Config.statusWriteMs).finish .ok 0
      else ((s.sendFrame (wrsrBytes s.reqValue)).setXferOk s.nextTx).raise .transportFail := by
  have hx : (lineWsTx (lineWsSel s)).xferOk = s.nextTx := rfl
  have hd : (lineWsTx (lineWsSel s)).deselect = ((s.sendFrame (wrsrBytes s.reqValue)).setXferOk s.nextTx).goto .wsDesel := by
    simp only [lineWsTx, lineWsSel, State.goto_goto, State.deselect_goto, State.transmit_goto, State.stageBytes_goto,
      State.setXferOk_goto, State.deselect_setXferOk, State.sendFrame, State.goto_reqValue, State.select_reqValue,
      State.goto_nextTx, State.select_nextTx]
  rw [hx]
  split
  · rename_i h
    rw [lineWsDelay, lineWsDesel, if_pos (hx.trans h), hd, State.goto_goto, State.delay_goto, State.finish_goto]
  · rename_i h
    rw [lineWsDesel, if_neg (by rw [hx]; exact h), hd, State.raise_goto]

/-- One chunk of a WRITE up to the Deselect of its WRITE frame (41_page_write.md R147). -/
def State.sendChunk (data : List (BitVec 8)) (s : State) : State :=
  ((s.planChunk.sendFrame wrenBytes).sendFrame (writeBytes s.curAddr data)).setXferOk (s.planChunk.sendFrame wrenBytes).nextTx

/-- Eight lines run one chunk: planned, enabled, sent, and after a successful frame the delay and the advance or the end; six
events and the end after a failed one (41_page_write.md R147, R150, R151). -/
theorem runLines_chunk {data : List (BitVec 8)} (hp : s.phase = .wPlan) (hr : s.resetIn = none)
    (hd : sliceBytes s.src s.curOff.toNat (chunkLength s.curAddr.toNat s.remLen.toNat) = some data) (k : Nat) :
    runLines (k + 8) s =
      if (s.planChunk.sendFrame wrenBytes).nextTx then
        (if chunkLength s.curAddr.toNat s.remLen.toNat = s.remLen.toNat
          then .next (((s.sendChunk data).delay Config.writeCycleMs).finish .ok 0)
          else runLines k (((s.sendChunk data).delay Config.writeCycleMs).advanceChunk.goto .wPlan))
      else .next ((s.sendChunk data).raise .transportFail) := by
  have e1 : lineWEnDesel (lineWEnTx (lineWEnSel (lineWPlan s))) = (s.planChunk.sendFrame wrenBytes).goto .wSel := by
    simp only [lineWEnDesel, lineWEnTx, lineWEnSel, lineWPlan, State.goto_goto, State.deselect_goto, State.transmit_goto,
      State.stageBytes_goto, State.select_goto, State.sendFrame]
  generalize hu : s.planChunk.sendFrame wrenBytes = u at e1
  have hucur : u.curAddr = s.curAddr := by rw [← hu]; simp
  have huclen : u.chunkLen = chunkLength s.curAddr.toNat s.remLen.toNat := by rw [← hu]; simp
  have hurem : u.remLen = s.remLen := by rw [← hu]; simp
  have hur : u.resetIn = none := by rw [← hu]; simpa using hr
  have htx : lineWTx (lineWSel (u.goto .wSel)) =
      .next ((((u.select.stageBytes (writeBytes s.curAddr data)).transmit).setXferOk u.nextTx).goto .wDesel) := by
    have : sliceBytes (lineWSel (u.goto .wSel)).src (lineWSel (u.goto .wSel)).curOff.toNat (lineWSel (u.goto .wSel)).chunkLen =
        some data := by
      rw [← hd]; simp [lineWSel, ← hu]
    unfold lineWTx
    rw [this]
    simp only [lineWSel, State.goto_goto, State.select_goto, State.transmit_goto, State.stageBytes_goto, State.setXferOk_goto,
      State.goto_curAddr, State.select_curAddr, State.goto_nextTx, State.select_nextTx, hucur]
  rw [runLines_line hp (by decide) hr (line_wPlan hp),
    runLines_line (s := lineWPlan s) (p := .wEnSel) rfl (by decide) hr (line_wEnSel rfl),
    runLines_line (s := lineWEnSel (lineWPlan s)) (p := .wEnTx) rfl (by decide) hr (line_wEnTx rfl),
    runLines_line (s := lineWEnTx (lineWEnSel (lineWPlan s))) (p := .wEnDesel) rfl (by decide) hr (line_wEnDesel rfl), e1,
    runLines_line (s := u.goto .wSel) (p := .wSel) rfl (by decide) hur (line_wSel rfl),
    runLines_line (s := lineWSel (u.goto .wSel)) (p := .wTx) rfl (by decide) hur ((line_wTx rfl).trans htx)]
  have hs : s.sendChunk data = (u.sendFrame (writeBytes s.curAddr data)).setXferOk u.nextTx := by rw [State.sendChunk, hu]
  generalize hv : (((u.select.stageBytes (writeBytes s.curAddr data)).transmit).setXferOk u.nextTx).goto .wDesel = v
  have hvd : v.deselect = ((u.sendFrame (writeBytes s.curAddr data)).setXferOk u.nextTx).goto .wDesel := by
    rw [← hv, State.deselect_goto, State.deselect_setXferOk, State.sendFrame]
  have hvp : v.phase = .wDesel := by rw [← hv]; rfl
  have hvr : v.resetIn = none := by rw [← hv]; simpa using hur
  have hvx : v.xferOk = u.nextTx := by rw [← hv]; rfl
  rw [runLines_line hvp (by decide) hvr (line_wDesel hvp)]
  by_cases h : u.nextTx = true
  · rw [if_pos h, lineWDesel, if_pos (hvx.trans h), hvd, State.goto_goto, ← hs]
    rw [runLines_line (s := (s.sendChunk data).goto .wDelay) (p := .wDelay) rfl (by decide) (by rw [hs]; simpa using hur)
      (line_wDelay rfl)]
    have hc : (s.sendChunk data).chunkLen = chunkLength s.curAddr.toNat s.remLen.toNat := by rw [hs]; simpa using huclen
    have hl : (s.sendChunk data).remLen = s.remLen := by rw [hs]; simpa using hurem
    rw [lineWDelay, State.goto_chunkLen, State.goto_remLen, hc, hl]
    split
    · rw [State.delay_goto, State.finish_goto]; exact runLines_idle rfl k
    · rfl
  · rw [if_neg h, lineWDesel, if_neg (by rw [hvx]; exact h), hvd, State.raise_goto, ← hs]
    exact runLines_idle rfl _

end Sys2Proof.Machine
end

