-- ==== Sys2Proof/Laws/WriteLoop.lean ====
section
/-! SUPPORT. The loop of a WRITE (41_page_write.md R140 to R147): one principle for what holds after it, and its closed form. -/

namespace Sys2Proof.Machine

/-- The splitter stands at the plan of a chunk with its bytes in SRC (41_page_write.md R140). -/
structure State.AtPlan (s : State) : Prop where
  phase  : s.phase = .wPlan
  reset  : s.resetIn = none
  source : s.curOff.toNat + s.remLen.toNat ≤ s.src.length
  length : s.curOff.toNat + s.remLen.toNat < 65536

/-- The length of the chunk the splitter plans next (41_page_write.md R142). -/
def State.nextLen (s : State) : Nat := chunkLength s.curAddr.toNat s.remLen.toNat

/-- The bytes of SRC the chunk planned next carries (41_page_write.md R148). -/
def State.nextData (s : State) : List (BitVec 8) := (s.src.drop s.curOff.toNat).take s.nextLen

/-- The answer its WRITE-frame exchange gets (41_page_write.md R150). -/
def State.nextSent (s : State) : Bool := (s.planChunk.sendFrame wrenBytes).nextTx

/-- The chunk sent and its delay over (41_page_write.md R151). -/
def State.chunkDone (s : State) : State := (s.sendChunk s.nextData).delay Config.writeCycleMs

theorem State.nextLen_le (s : State) : s.nextLen ≤ s.remLen.toNat := chunkLength_le_rem _ _

theorem State.AtPlan.slice {s : State} (h : s.AtPlan) :
    sliceBytes s.src s.curOff.toNat (chunkLength s.curAddr.toNat s.remLen.toNat) = some s.nextData := by
  have h1 := s.nextLen_le
  have h2 := h.source
  unfold State.nextLen at h1
  rw [sliceBytes, if_pos (by omega)]
  rfl

theorem State.length_nextData {s : State} (h : s.AtPlan) : s.nextData.length = s.nextLen := by
  have h1 := s.nextLen_le
  have h2 := h.source
  simp only [State.nextData, List.length_take, List.length_drop]
  omega

/-! ## What a chunk leaves of the registers -/

theorem State.sendChunk_par (s : State) (data : List (BitVec 8)) : (s.sendChunk data).par = s.par := by simp [State.sendChunk]
theorem State.sendChunk_src (s : State) (data : List (BitVec 8)) : (s.sendChunk data).src = s.src := by simp [State.sendChunk]
theorem State.sendChunk_reqBus (s : State) (data : List (BitVec 8)) : (s.sendChunk data).reqBus = s.reqBus := by
  simp [State.sendChunk]
theorem State.sendChunk_resetIn (s : State) (data : List (BitVec 8)) : (s.sendChunk data).resetIn = s.resetIn := by
  simp [State.sendChunk]
theorem State.sendChunk_curAddr (s : State) (data : List (BitVec 8)) : (s.sendChunk data).curAddr = s.curAddr := by
  simp [State.sendChunk]
theorem State.sendChunk_curOff (s : State) (data : List (BitVec 8)) : (s.sendChunk data).curOff = s.curOff := by
  simp [State.sendChunk]
theorem State.sendChunk_remLen (s : State) (data : List (BitVec 8)) : (s.sendChunk data).remLen = s.remLen := by
  simp [State.sendChunk]
theorem State.sendChunk_chunkLen (s : State) (data : List (BitVec 8)) : (s.sendChunk data).chunkLen = s.nextLen := by
  simp [State.sendChunk, State.nextLen]
theorem State.sendChunk_posted (s : State) (data : List (BitVec 8)) : (s.sendChunk data).posted = s.posted := by
  simp [State.sendChunk]
theorem State.sendChunk_dst (s : State) (data : List (BitVec 8)) : (s.sendChunk data).dst = s.dst := by simp [State.sendChunk]
theorem State.sendChunk_txAnswers (s : State) (data : List (BitVec 8)) :
    (s.sendChunk data).txAnswers = s.txAnswers.tail.tail := by simp [State.sendChunk]

/-- The plan of the next chunk, past one that was not the last (41_page_write.md R144). -/
def State.nextPlan (s : State) : State := s.chunkDone.advanceChunk.goto .wPlan

theorem State.nextPlan_curAddr (s : State) : s.nextPlan.curAddr = s.curAddr + BitVec.ofNat 16 s.nextLen := by
  simp [State.nextPlan, State.chunkDone, State.sendChunk_curAddr, State.sendChunk_chunkLen]
theorem State.nextPlan_curOff (s : State) : s.nextPlan.curOff = s.curOff + BitVec.ofNat 16 s.nextLen := by
  simp [State.nextPlan, State.chunkDone, State.sendChunk_curOff, State.sendChunk_chunkLen]
theorem State.nextPlan_remLen (s : State) : s.nextPlan.remLen = s.remLen - BitVec.ofNat 16 s.nextLen := by
  simp [State.nextPlan, State.chunkDone, State.sendChunk_remLen, State.sendChunk_chunkLen]
theorem State.nextPlan_par (s : State) : s.nextPlan.par = s.par := by
  simp [State.nextPlan, State.chunkDone, State.sendChunk_par]
theorem State.nextPlan_src (s : State) : s.nextPlan.src = s.src := by
  simp [State.nextPlan, State.chunkDone, State.sendChunk_src]
theorem State.nextPlan_reqBus (s : State) : s.nextPlan.reqBus = s.reqBus := by
  simp [State.nextPlan, State.chunkDone, State.sendChunk_reqBus]
theorem State.nextPlan_txAnswers (s : State) : s.nextPlan.txAnswers = s.txAnswers.tail.tail := by
  simp [State.nextPlan, State.chunkDone, State.sendChunk_txAnswers]
theorem State.nextPlan_posted (s : State) : s.nextPlan.posted = s.posted := by
  simp [State.nextPlan, State.chunkDone, State.sendChunk_posted]

theorem State.nextLen_lt {s : State} (h : s.nextLen ≠ s.remLen.toNat) :
    s.nextLen = pageRemaining s.curAddr.toNat ∧ s.nextLen < s.remLen.toNat := by
  unfold State.nextLen chunkLength at *
  split at h <;> rename_i h' <;> simp_all

/-- The sums of the splitter after an advance (41_page_write.md R144). -/
theorem State.nextPlan_sums {s : State} (h : s.AtPlan) (hn : s.nextLen ≠ s.remLen.toNat) :
    s.nextPlan.curOff.toNat = s.curOff.toNat + s.nextLen ∧ s.nextPlan.remLen.toNat + s.nextLen = s.remLen.toNat ∧
    s.nextPlan.curAddr.toNat % Config.pageSize = 0 ∧
    (s.curAddr.toNat + s.remLen.toNat ≤ 65536 → s.nextPlan.curAddr.toNat = s.curAddr.toNat + s.nextLen) := by
  obtain ⟨h1, h2⟩ := State.nextLen_lt hn
  have h3 := h.length
  have h4 := s.remLen.isLt
  have h5 := s.curAddr.isLt
  have h6 := pageRemaining_bounds s.curAddr.toNat
  rw [State.nextPlan_curOff, State.nextPlan_remLen, State.nextPlan_curAddr]
  simp only [BitVec.toNat_add, BitVec.toNat_sub, BitVec.toNat_ofNat]
  simp only [pageRemaining, Config.pageSize] at *
  omega

theorem State.AtPlan.next {s : State} (h : s.AtPlan) (hn : s.nextLen ≠ s.remLen.toNat) : s.nextPlan.AtPlan := by
  obtain ⟨h1, h2, -, -⟩ := State.nextPlan_sums h hn
  refine ⟨rfl, ?_, ?_, ?_⟩
  · simpa [State.nextPlan, State.chunkDone, State.sendChunk_resetIn] using h.reset
  · have := h.source; rw [State.nextPlan_src]; omega
  · have := h.length; omega

/-- How many chunks there are depends on the offset in the page only (41_page_write.md R145). -/
theorem chunkCount_mod (A L : Nat) : chunkCount A L = chunkCount (A % Config.pageSize) L := by
  unfold chunkCount
  simp only [Config.pageSize]
  split <;> omega

theorem chunkCount_next {a r : Nat} (h : pageRemaining a < r) :
    chunkCount a r = chunkCount 0 (r - pageRemaining a) + 1 := by
  rw [chunkCount, chunkCount, if_neg (by omega), if_neg (by omega)]
  simp only [pageRemaining, Config.pageSize] at *
  omega

theorem chunkCount_pos (a r : Nat) : 1 ≤ chunkCount a r := by
  unfold chunkCount; split <;> omega

theorem chunkCount_le (a r : Nat) : chunkCount a r ≤ r / Config.pageSize + 2 := by
  unfold chunkCount
  simp only [Config.pageSize]
  split <;> omega

/-- The eight lines of one chunk. -/
theorem State.AtPlan.run {s : State} (h : s.AtPlan) (k : Nat) :
    runLines (k + 8) s =
      if s.nextSent then (if s.nextLen = s.remLen.toNat then .next (s.chunkDone.finish .ok 0) else runLines k s.nextPlan)
      else .next ((s.sendChunk s.nextData).raise .transportFail) :=
  runLines_chunk s h.phase h.reset h.slice k

/-- Whatever holds at every plan and is carried by every chunk holds at the end of the loop: `P` at each plan, `Q` at the end,
which a chunk reaches by a failed WRITE frame or as the last one (41_page_write.md R147, R150, R151). -/
theorem runLines_write {P Q : State → Prop}
    (hfail : ∀ s, s.AtPlan → P s → s.nextSent = false → Q ((s.sendChunk s.nextData).raise .transportFail))
    (hlast : ∀ s, s.AtPlan → P s → s.nextSent = true → s.nextLen = s.remLen.toNat → Q (s.chunkDone.finish .ok 0))
    (hnext : ∀ s, s.AtPlan → P s → s.nextSent = true → s.nextLen ≠ s.remLen.toNat → P s.nextPlan) :
    ∀ (n k : Nat) (s : State), s.AtPlan → P s → chunkCount s.curAddr.toNat s.remLen.toNat = n →
      ∃ t, runLines (k + 8 * n) s = .next t ∧ Q t := by
  intro n
  induction n with
  | zero => intro k s _ _ h; have := chunkCount_pos s.curAddr.toNat s.remLen.toNat; omega
  | succ n ih =>
    intro k s hs hp hc
    rw [show k + 8 * (n + 1) = (k + 8 * n) + 8 by omega, hs.run]
    by_cases h1 : s.nextSent = true
    · rw [if_pos h1]
      by_cases h2 : s.nextLen = s.remLen.toNat
      · rw [if_pos h2]
        exact ⟨_, rfl, hlast s hs hp h1 h2⟩
      · rw [if_neg h2]
        obtain ⟨h3, h4⟩ := State.nextLen_lt h2
        obtain ⟨-, h5, h6, -⟩ := State.nextPlan_sums hs h2
        refine ih k s.nextPlan (hs.next h2) (hnext s hs hp h1 h2) ?_
        rw [chunkCount_mod, h6]
        have := chunkCount_next (a := s.curAddr.toNat) (r := s.remLen.toNat) (by omega)
        rw [show s.nextPlan.remLen.toNat = s.remLen.toNat - pageRemaining s.curAddr.toNat by omega]
        omega
    · rw [if_neg h1]
      exact ⟨_, rfl, hfail s hs hp (by simpa using h1)⟩

/-- The accepted WRITE at its first plan (60_exceptions.md R243, 41_page_write.md R147). -/
def State.startedWrite (bus : BitVec 8) (addr len : BitVec 16) (value : BitVec 8) (s : State) : State :=
  ((s.accept (requestFields opWrite bus addr len value)).startSplitter).goto .wPlan

/-- The principle for a whole WRITE that DECODE lets pass. -/
theorem execWrite_loop {P Q : State → Prop} {s : State} {bus : BitVec 8} {addr len : BitVec 16} (value : BitVec 8)
    (hr : s.resetIn = none) (ha : s.Accepts bus addr.toNat len.toNat) (hl : len.toNat ≤ s.src.length)
    (hfail : ∀ s, s.AtPlan → P s → s.nextSent = false → Q ((s.sendChunk s.nextData).raise .transportFail))
    (hlast : ∀ s, s.AtPlan → P s → s.nextSent = true → s.nextLen = s.remLen.toNat → Q (s.chunkDone.finish .ok 0))
    (hnext : ∀ s, s.AtPlan → P s → s.nextSent = true → s.nextLen ≠ s.remLen.toNat → P s.nextPlan)
    (hp : P (s.startedWrite bus addr len value)) :
    ∃ t, execWrite bus addr len value s = .next t ∧ Q t := by
  have hplan : (s.startedWrite bus addr len value).AtPlan := by
    refine ⟨rfl, hr, ?_, ?_⟩
    · show (0#16).toNat + len.toNat ≤ s.src.length
      simpa using hl
    · show (0#16).toNat + len.toNat < 65536
      have := len.isLt
      simpa using this
  have hstart : (s.accept (requestFields opWrite bus addr len value)).startOperation = s.startedWrite bus addr len value := by
    simp [State.startOperation, requestFields, State.startedWrite]
  have hdec : lineDecode (s.accept (requestFields opWrite bus addr len value)) = .next (s.startedWrite bus addr len value) := by
    rw [← hstart]
    exact lineDecode_pass (s.accept_descriptorOk bus addr len value (by decide)) (decide_eq_true ha.1) (decide_eq_true ha.2)
      (by simpa [State.bufferFault, requestFields, opRead, opWrite] using hl)
  have hb := chunkCount_le addr.toNat len.toNat
  obtain ⟨t, h1, h2⟩ := runLines_write hfail hlast hnext (chunkCount addr.toNat len.toNat)
    (8 * (len.toNat / Config.pageSize + 3) - 1 - 8 * chunkCount addr.toNat len.toNat) _ hplan hp rfl
  refine ⟨t, ?_, h2⟩
  have e : (s.accept (requestFields opWrite bus addr len value)).lineBudget =
      (8 * (len.toNat / Config.pageSize + 3) - 1 - 8 * chunkCount addr.toNat len.toNat +
        8 * chunkCount addr.toNat len.toNat) + 1 := by
    show 8 * (len.toNat / Config.pageSize + 3) = _
    omega
  rw [execWrite, runRequest, e,
    runLines_line (s := s.accept (requestFields opWrite bus addr len value)) (p := .decode) rfl (by decide) hr hdec]
  exact h1

/-! ## What a chunk does to the buses -/

/-- The device on the request's bus goes through the two transactions of a chunk (41_page_write.md R149). -/
theorem State.sendChunk_device (s : State) (data : List (BitVec 8)) : ∃ k k',
    (s.sendChunk data).device s.reqBus = (s.device s.reqBus).map fun d =>
      (d.transaction s.par k wrenBytes s.nextTx 0).transaction s.par k' (writeBytes s.curAddr data) s.nextSent 0 := by
  have h1 := s.planChunk.sendFrame_device wrenBytes
  have h2 := (s.planChunk.sendFrame wrenBytes).sendFrame_device (writeBytes s.curAddr data)
  rw [State.sendFrame_reqBus, h1, Option.map_map] at h2
  generalize (s.planChunk.select.stageBytes wrenBytes).transmit.draws = k at h2
  generalize ((s.planChunk.sendFrame wrenBytes).select.stageBytes (writeBytes s.curAddr data)).transmit.draws = k' at h2
  refine ⟨k, k', h2.trans ?_⟩
  rw [State.sendFrame_par]
  rfl

theorem State.sendChunk_device_ne (s : State) (data : List (BitVec 8)) {c : BitVec 8} (h : c ≠ s.reqBus) :
    (s.sendChunk data).device c = s.device c := by
  rw [State.sendChunk, State.setXferOk_device, State.sendFrame_device_ne _ _ (by simpa using h),
    State.sendFrame_device_ne _ _ (by simpa using h), State.planChunk_device]

theorem State.sendChunk_chipSelect (s : State) (data : List (BitVec 8)) :
    (s.sendChunk data).chipSelect s.reqBus = (s.chipSelect s.reqBus).map fun _ => false := by
  have h1 := s.planChunk.sendFrame_chipSelect wrenBytes
  have h2 := (s.planChunk.sendFrame wrenBytes).sendFrame_chipSelect (writeBytes s.curAddr data)
  rw [State.sendFrame_reqBus, h1] at h2
  refine h2.trans ?_
  rw [show s.planChunk.chipSelect s.planChunk.reqBus = s.chipSelect s.reqBus from rfl]
  cases s.chipSelect s.reqBus <;> rfl

theorem State.sendChunk_chipSelect_ne (s : State) (data : List (BitVec 8)) {c : BitVec 8} (h : c ≠ s.reqBus) :
    (s.sendChunk data).chipSelect c = s.chipSelect c := by
  rw [State.sendChunk, State.setXferOk_chipSelect, State.sendFrame_chipSelect_ne _ _ (by simpa using h),
    State.sendFrame_chipSelect_ne _ _ (by simpa using h), State.planChunk_chipSelect]

/-- The six events of a chunk (41_page_write.md R147, R148, R149). -/
theorem State.sendChunk_trace (s : State) (data : List (BitVec 8)) :
    (s.sendChunk data).trace = s.trace ++
      [.select s.reqBus, .tx s.reqBus wrenBytes s.nextTx, .deselect s.reqBus, .select s.reqBus,
       .tx s.reqBus (writeBytes s.curAddr data) s.nextSent, .deselect s.reqBus] := by
  simp [State.sendChunk, State.nextSent]

/-- What a chunk's frames find at the device: the address of the chunk and its page (41_page_write.md R152). -/
theorem chunk_page {par : Config.Params} {a : BitVec 16} {r : Nat} (h : a.toNat < par.deviceSize) :
    devicePageBase par a + devicePageOffset par a = a.toNat ∧
      devicePageOffset par a + chunkLength a.toNat r ≤ Config.pageSize := by
  obtain ⟨h1, h2⟩ := devicePage_of_lt h
  have h3 := chunkLength_le_page a.toNat r
  rw [h1, h2]
  simp only [pageRemaining, Config.pageSize] at *
  omega

/-! ## The closed form of the chunks (41_page_write.md R146) -/

theorem writeChunks_last {A L : Nat} (h : L ≤ pageRemaining A) : writeChunks A L = [{ addr := A, off := 0, len := L }] := by
  have hc : chunkCount A L = 1 := by
    unfold chunkCount
    simp only [pageRemaining, Config.pageSize] at *
    split <;> omega
  simp only [writeChunks, hc, List.range_one, List.map_cons, List.map_nil, chunkAt, if_true]
  simp only [pageRemaining] at h
  rw [Nat.min_eq_left h]

theorem writeChunks_next {A L : Nat} (h : pageRemaining A < L) :
    writeChunks A L = { addr := A, off := 0, len := pageRemaining A } ::
      (writeChunks (A + pageRemaining A) (L - pageRemaining A)).map fun c => { c with off := c.off + pageRemaining A } := by
  have hc : chunkCount A L = chunkCount (A + pageRemaining A) (L - pageRemaining A) + 1 := by
    rw [chunkCount_next h, chunkCount_mod (A + pageRemaining A)]
    congr 2
    simp only [pageRemaining, Config.pageSize] at *
    omega
  rw [writeChunks, hc, List.range_succ_eq_map, List.map_cons, List.map_map, writeChunks, List.map_map]
  congr 1
  · simp only [chunkAt, if_true, Chunk.mk.injEq, true_and]
    exact Nat.min_eq_right (Nat.le_of_lt h)
  · refine List.map_congr_left fun j _ => ?_
    simp only [Function.comp, chunkAt, Nat.succ_ne_zero, if_false]
    simp only [pageRemaining, Config.pageSize] at *
    split
    · subst j
      simp only [Chunk.mk.injEq]
      omega
    · simp only [Chunk.mk.injEq]
      omega

end Sys2Proof.Machine
end

