-- ==== Sys2Proof/Tests/Slice0.lean ====
section
/-! SUPPORT. The model's own tests. Expected values come from spec/95_test_vectors.md (the vector is named) or from the rule
named; the witnesses at the end show that the statements' hypotheses can be met. -/

namespace Sys2Proof.Tests

open Sys2Proof Sys2Proof.Machine

/-! ## Well-formedness -/

/-- Seventeen data bytes are more than a page. -/
theorem test_wf_refuses_long_data : Instr.dataFits (.writeFrame 0 (List.replicate 17 0)) = false := by decide
/-- Three bytes at offset 14 cross the page. -/
theorem test_wf_refuses_page_crossing : Instr.wellFormed (.writeFrame 0x000E [1, 2, 3]) = false := by decide
theorem test_wf_takes_whole_page : Instr.wellFormed (.writeFrame 0x0010 (List.replicate 16 0)) = true := by decide

/-! ## Decoding: words written out from 30_encoding.md R92, R100, R101 -/

/-- Q-1: LEN = 20 in bits 47..32, ADDR = 0x000A in bits 31..16, OP 0. -/
theorem test_decode_write : decode (.descriptor 0x00000014000A0000#64) = .instr (.write 0 0x000A 20 0) := by decide
/-- Q-2. -/
theorem test_decode_read : decode (.descriptor 0x0000000500000001#64) = .instr (.read 0 0 5 0) := by decide
/-- Q-3. -/
theorem test_decode_readByte : decode (.descriptor 0x0000000007FF0002#64) = .instr (.readByte 0 0x07FF 0 0) := by decide
/-- Q-14 on bus 1. -/
theorem test_decode_readStatus :
    decode (.descriptor 0x0001FFFFFFFFAB03#64) = .instr (.readStatus 1 0xFFFF 0xFFFF 0xAB) := by decide
/-- Q-5. -/
theorem test_decode_writeStatus : decode (.descriptor 0x0000000000000C04#64) = .instr (.writeStatus 0 0 0 0x0C) := by decide
/-- Byte 0 0x01, then the value. -/
theorem test_decode_wrsr : decode (.frame [0x01, 0x0C]) = .instr (.wrsr 0x0C) := by decide
/-- Byte 0 0x02, the address high byte first, then the data. -/
theorem test_decode_writeFrame : decode (.frame [0x02, 0x07, 0xFF, 0x5A]) = .instr (.writeFrame 0x07FF [0x5A]) := by decide
/-- Byte 0 0x03, the address high byte first. -/
theorem test_decode_readFrame : decode (.frame [0x03, 0x07, 0xFB]) = .instr (.readFrame 0x07FB) := by decide
theorem test_decode_wrdi : decode (.frame [0x04]) = .instr .wrdi := by decide
theorem test_decode_rdsr : decode (.frame [0x05]) = .instr .rdsr := by decide
theorem test_decode_wren : decode (.frame [0x06]) = .instr .wren := by decide
/-- Q-7, Q-8, Q-9, Q-10 and Q-12: reserved descriptors. -/
theorem test_decode_reserved_descriptors :
    decode (.descriptor 0x0000000000000005#64) = .rejected .reservedOp ∧
    decode (.descriptor 0x0000000000000006#64) = .rejected .reservedOp ∧
    decode (.descriptor 0x0000000000000007#64) = .rejected .reservedOp ∧
    decode (.descriptor 0x0000000000000083#64) = .rejected .reservedBits ∧
    decode (.descriptor 0x0100000000000003#64) = .rejected .reservedBits ∧
    decode (.descriptor 0x0005000008000005#64) = .rejected .reservedOp := by decide
/-- DV-12, DV-13, DV-14 and DV-22: frames that are no command. -/
theorem test_decode_ignored_frames :
    decode (.frame [0x9F]) = .rejected .reservedOpcode ∧ decode (.frame [0x06, 0x00]) = .rejected .wrongLength ∧
    decode (.frame [0x01]) = .rejected .wrongLength ∧ decode (.frame []) = .rejected .emptyFrame := by decide

/-! ## Small states -/

/-- One bus with device `d`, and the transport's answers. -/
def rig (d : Device) (txs : List Bool) (rxs : List Nat) : State :=
  { State.reset with buses := [{ cs := false, dev := d }], txAnswers := txs, rxAnswers := rxs }

/-- `p` holds of the next state. -/
def onNext (o : Out) (p : State → Bool) : Bool :=
  match o with
  | .next t => p t
  | .fault _ => false
  | .refused _ => false

/-- `p` holds of bus 0's device in the next state. -/
def onDev (o : Out) (p : Device → Bool) : Bool := onNext o fun t => (t.device 0).any p

theorem next_of {o : Out} {p : State → Bool} (h : onNext o p = true) : ∃ t, o = .next t := by
  cases o with
  | next t => exact ⟨t, rfl⟩
  | fault f => simp [onNext] at h
  | refused r => simp [onNext] at h

/-- The bytes 0x01 to 0x14. -/
def twenty : List (BitVec 8) := (List.range 20).map fun k => BitVec.ofNat 8 (k + 1)

def blankDev : Device := Device.powerUp
def welDev : Device := { Device.powerUp with wel := true }
def busyDev : Device := { Device.powerUp with wipMs := 4 }

/-! ## The host operations -/

/-- L1-1. -/
theorem test_write_two_pages :
    onNext (exec (.write 0 0x00A 20 0) { rig blankDev [true, true, true, true] [] with src := twenty }) (fun t =>
      t.resultStatus == 0 && t.trace ==
        [.select 0, .tx 0 [0x06] true, .deselect 0, .select 0,
         .tx 0 [0x02, 0x00, 0x0A, 0x01, 0x02, 0x03, 0x04, 0x05, 0x06] true, .deselect 0, .delay 4,
         .select 0, .tx 0 [0x06] true, .deselect 0, .select 0,
         .tx 0 [0x02, 0x00, 0x10, 0x07, 0x08, 0x09, 0x0A, 0x0B, 0x0C, 0x0D, 0x0E, 0x0F, 0x10, 0x11, 0x12, 0x13, 0x14] true,
         .deselect 0, .delay 4] &&
      t.memByte 0 0x009 == 0xFF && t.memByte 0 0x00A == 0x01 && t.memByte 0 0x01D == 0x14 && t.memByte 0 0x01E == 0xFF) = true := by
  decide +kernel
/-- L1-2. -/
theorem test_write_fails_on_first_frame :
    onNext (exec (.write 0 0x00A 20 0) { rig blankDev [true, false] [] with src := twenty }) (fun t =>
      t.resultStatus == 1 && t.resultValue == 0 && t.trace ==
        [.select 0, .tx 0 [0x06] true, .deselect 0, .select 0,
         .tx 0 [0x02, 0x00, 0x0A, 0x01, 0x02, 0x03, 0x04, 0x05, 0x06] false, .deselect 0]) = true := by decide +kernel
/-- L1-3. -/
theorem test_read_five :
    onNext (exec (.read 0 0 5 0)
      { rig { blankDev with mem := [(0, 0x10), (1, 0x20), (2, 0x30), (3, 0x40), (4, 0x50)] } [true] [5] with
        dst := [0, 0, 0, 0, 0, 0xEE] }) (fun t =>
      t.dst == [0x10, 0x20, 0x30, 0x40, 0x50, 0xEE] && t.resultStatus == 0 && t.trace ==
        [.select 0, .tx 0 [0x03, 0x00, 0x00] true, .rx 0 5 [0x10, 0x20, 0x30, 0x40, 0x50], .deselect 0, .delay 4]) = true := by
  decide +kernel
/-- RD-6: three of four bytes come. -/
theorem test_read_short :
    onNext (exec (.read 0 0 4 0) { rig blankDev [true] [3] with dst := [1, 2, 3, 4] }) (fun t =>
      t.resultStatus == 1 && t.resultValue == 0 && t.trace.length == 4 && t.dst.length == 4) = true := by decide +kernel
/-- RD-8. -/
theorem test_readByte_last :
    onNext (exec (.readByte 0 0x7FF 0 0) (rig { blankDev with mem := [(0x7FF, 0x5A)] } [true] [1])) (fun t =>
      t.resultStatus == 0 && t.resultValue == 0x5A && t.trace ==
        [.select 0, .tx 0 [0x03, 0x07, 0xFF] true, .rx 0 1 [0x5A], .deselect 0, .delay 4]) = true := by decide +kernel
/-- RD-10. -/
theorem test_readByte_no_data :
    onNext (exec (.readByte 0 0x020 0 0) (rig blankDev [true] [0])) (fun t =>
      t.resultStatus == 2 && t.resultValue == 0 && t.trace ==
        [.select 0, .tx 0 [0x03, 0x00, 0x20] true, .rx 0 1 [], .deselect 0]) = true := by decide +kernel
/-- S-1. -/
theorem test_readStatus :
    onNext (exec (.readStatus 0 0xFFFF 0xFFFF 0xAB) (rig { blankDev with bp1 := true, bp0 := true } [true] [1])) (fun t =>
      resultWord t == 0x0C00 && t.trace == [.select 0, .tx 0 [0x05] true, .rx 0 1 [0x0C], .deselect 0]) = true := by
  decide +kernel
/-- S-8. -/
theorem test_readStatus_busy :
    onNext (exec (.readStatus 0 0 0 0) (rig busyDev [true] [1])) (fun t => resultWord t == 0x0100) = true := by decide +kernel
/-- S-4. -/
theorem test_writeStatus_mask :
    onNext (exec (.writeStatus 0 0 0 0xFF) (rig blankDev [true, true] [])) (fun t =>
      t.resultStatus == 0 && (t.device 0).any (fun d => d.statusByte == 0x8C) && t.trace ==
        [.select 0, .tx 0 [0x06] true, .deselect 0, .select 0, .tx 0 [0x01, 0xFF] true, .deselect 0, .delay 4]) = true := by
  decide +kernel
/-- S-6: WPEN = 1 with the pin asserted. -/
theorem test_writeStatus_locked :
    onNext (exec (.writeStatus 0 0 0 0x00)
      { rig { blankDev with wpen := true } [true, true] [] with par := { Config.Params.standard with wpN := false } }) (fun t =>
      t.resultStatus == 0 && t.trace.length == 7 && (t.device 0).any (fun d => d.wpen && !d.bp1 && !d.bp0 && d.wipMs == 0)) =
      true := by decide +kernel

/-! ## The device frames -/

/-- DV-1. -/
theorem test_wren : onDev (exec .wren (rig blankDev [true] [])) (fun d => d.statusByte == 0x02) = true := by decide +kernel
/-- DV-6: ignored while busy. -/
theorem test_wren_busy :
    onDev (exec .wren (rig busyDev [true] [])) (fun d => !d.wel && d.wipMs == 4) = true := by decide +kernel
/-- DV-2. -/
theorem test_rdsr :
    onNext (exec .rdsr { rig { welDev with bp1 := true, bp0 := true } [true] [1] with benchRx := [1] }) (fun t =>
      t.benchGot == [[0x0E]]) = true := by decide +kernel
/-- DV-3. -/
theorem test_wrsr : onDev (exec (.wrsr 0xFF) (rig welDev [true] [])) (fun d => d.statusByte == 0x8D) = true := by decide +kernel
/-- DV-18: WEL is clear. -/
theorem test_wrsr_without_wel :
    onDev (exec (.wrsr 0x0C) (rig blankDev [true] [])) (fun d => d == blankDev) = true := by decide +kernel
/-- DV-5: the wrap in the page. -/
theorem test_writeFrame_wraps :
    onDev (exec (.writeFrame 0x000E [0x11, 0x22, 0x33]) (rig welDev [true] [])) (fun d =>
      d.mem == [(0x000, 0x33), (0x00E, 0x11), (0x00F, 0x22)] && !d.wel && d.wipMs == 4) = true := by decide +kernel
/-- DV-7: 0x600 is protected. -/
theorem test_writeFrame_protected :
    onDev (exec (.writeFrame 0x0600 [0xAA]) (rig { welDev with bp0 := true } [true] [])) (fun d =>
      d.mem == [] && d.wipMs == 0) = true := by decide +kernel
/-- DV-19: the pointer runs on across exchanges and pages. -/
theorem test_readFrame_runs_on :
    onNext (exec (.readFrame 0x000F)
      { rig { blankDev with mem := [(0x00F, 0x0A), (0x010, 0x0B), (0x011, 0x0C)] } [true] [1, 2] with benchRx := [1, 2] }) (fun t =>
      t.benchGot == [[0x0A], [0x0B, 0x0C]]) = true := by decide +kernel
/-- DV-16: 0x0805 is 0x005 modulo the size. -/
theorem test_readFrame_modulo :
    onNext (exec (.readFrame 0x0805)
      { rig { blankDev with mem := [(0x005, 0x77)] } [true] [1] with benchRx := [1] }) (fun t => t.benchGot == [[0x77]]) = true := by
  decide +kernel
/-- DV-9. -/
theorem test_wrdi : onDev (exec .wrdi (rig welDev [true] [])) (fun d => !d.wel) = true := by decide +kernel

/-! ## The step -/

/-- Q-12: the descriptor check comes first. -/
theorem test_step_reserved_descriptor :
    onNext (step { State.reset with host := [.request 0x0005000008000005#64 [] [] none] }) (fun t =>
      resultWord t == 0x0004 && t.trace == [] && t.posted == 1) = true := by decide +kernel
/-- DV-6: Delay(2) leaves 2 of 4 ms. -/
theorem test_wait :
    onDev (step { rig busyDev [] [] with host := [.wait 2] }) (fun d => d.wipMs == 2) = true := by decide +kernel
/-- H-2: after the WRITE frame of chunk 0 (line 7 of the request) the reset lands; no result is posted. -/
theorem test_reset_mid_request :
    onNext (step { rig blankDev [true, true] [] with host := [.request 0x00000014000A0000#64 twenty [] (some 7)] }) (fun t =>
      t.phase == .idle && t.posted == 0 && t.chipSelect 0 == some false && t.trace ==
        [.select 0, .tx 0 [0x06] true, .deselect 0, .select 0,
         .tx 0 [0x02, 0x00, 0x0A, 0x01, 0x02, 0x03, 0x04, 0x05, 0x06] true]) = true := by decide +kernel
theorem test_fetch_word_wren : onDev (step (State.reset.withFetchWord 8 0x06)) (fun d => d.wel) = true := by decide +kernel


/-! ## The statements' hypotheses can be met

Each theorem names the statement and gives a state and operands that meet all of its hypotheses together; where a statement has
several clauses over one input, one for each clause at a boundary. -/

/-- An idle bus with every exchange answered. -/
def ready : State := { rig blankDev [true, true, true, true, true] [65536, 65536] with src := twenty, dst := twenty }

theorem ready_accepts : ready.Accepts 0 (0x7F0#16).toNat (16#16).toNat := ⟨by decide, by decide, by decide⟩
theorem ready_accepts_last : ready.Accepts 0 (0x7FF#16).toNat (1#16).toNat := ⟨by decide, by decide, by decide⟩
theorem ready_accepts_two : ready.Accepts 0 (0x00A#16).toNat (20#16).toNat := ⟨by decide, by decide, by decide⟩
theorem ready_accepts_none : ready.Accepts 0 (0x7FF#16).toNat 0 := ⟨by decide, by decide, by decide⟩
theorem ready_unprotected (a : Nat) : blankDev.protects ready.par a = false := rfl

/-- A request held line by line. -/
def atLabel (p : Phase) : State := { ready with phase := p, reqBus := 0, reqLen := 1, remLen := 1 }

theorem witness_EncodeOfDecodeIsTheWord : ∃ e i, decode e = .instr i :=
  ⟨.descriptor 0x00000014000A0000#64, .write 0 0x000A 20 0, by decide⟩
theorem witness_StepRunsTheDecodedRequest :
    ∃ s desc src dst cut rest i, State.phase s = .idle ∧ s.host = .request desc src dst cut :: rest ∧
      decode (.descriptor desc) = .instr i :=
  ⟨{ ready with host := [.request 0x3#64 [] [] none] }, 0x3#64, [], [], none, [], .readStatus 0 0 0 0, by decide⟩
theorem witness_StepRunsTheDecodedFrame :
    ∃ s bus bytes rxs rest i, State.phase s = .idle ∧ s.host = .frame bus bytes rxs :: rest ∧ decode (.frame bytes) = .instr i :=
  ⟨{ ready with host := [.frame 0 [0x05] [1]] }, 0, [0x05], [1], [], .rdsr, by decide⟩
theorem witness_BusyBlockHoldsTheHost : ∃ s t, State.phase s ≠ .idle ∧ step s = .next t :=
  ⟨atLabel .rSel, lineRSel (atLabel .rSel), by decide, rfl⟩
theorem witness_AcceptanceLatchesTheDescriptor :
    ∃ s desc src dst cut rest, State.phase s = .idle ∧ s.host = .requestByLine desc src dst cut :: rest :=
  ⟨{ ready with host := [.requestByLine 0x3#64 [] [] none] }, 0x3#64, [], [], none, [], by decide⟩
theorem witness_EachLabelPerformsItsOneEvent_select :
    ∃ s t, State.phase s ≠ .idle ∧ s.resetIn = none ∧ step s = .next t :=
  ⟨atLabel .wSel, lineWSel (atLabel .wSel), by decide, rfl, rfl⟩
theorem witness_EachLabelPerformsItsOneEvent_plan :
    ∃ s t, State.phase s ≠ .idle ∧ s.resetIn = none ∧ step s = .next t :=
  ⟨atLabel .wPlan, lineWPlan (atLabel .wPlan), by decide, rfl, rfl⟩
theorem witness_EachLabelPerformsItsOneEvent_tx :
    ∃ s t, State.phase s ≠ .idle ∧ s.resetIn = none ∧ step s = .next t := by
  obtain ⟨t, h⟩ := next_of (o := step { atLabel .wTx with chunkLen := 16 }) (p := fun _ => true) (by decide +kernel)
  exact ⟨_, t, by decide, rfl, h⟩
theorem witness_EachLabelPerformsItsOneEvent_rx :
    ∃ s t, State.phase s ≠ .idle ∧ s.resetIn = none ∧ step s = .next t := by
  obtain ⟨t, h⟩ := next_of (o := step { atLabel .rData with reqOp := opRead }) (p := fun _ => true) (by decide +kernel)
  exact ⟨_, t, by decide, rfl, h⟩
theorem witness_EveryRequestReturnsToIdle : ∃ i s t, isRequest i = true ∧ exec i s = .next t := by
  obtain ⟨t, h⟩ := next_of (o := exec (.write 0 0x00A 20 0) ready) (p := fun _ => true) (by decide +kernel)
  exact ⟨_, _, t, rfl, h⟩
theorem witness_LineByLineReachesTheWholeRequest :
    ∃ s t desc src dst cut rest, State.phase s = .idle ∧
      step { s with host := .request desc src dst cut :: rest } = .next t := by
  obtain ⟨t, h⟩ := next_of (o := step { ready with host := [.request 0x00000014000A0000#64 twenty [] (some 7)] })
    (p := fun _ => true) (by decide +kernel)
  exact ⟨ready, t, _, _, _, _, _, rfl, h⟩
theorem witness_StepKeepsTheParameters : ∃ s t, step s = .next t := ⟨ready, ready, rfl⟩

/-- One descriptor for each way of being reserved, at the lowest bit or value. -/
theorem witness_ReservedDescriptorPostsInvalidRequest :
    (0x5#64).toNat % 8 = 5 ∧ (0x6#64).toNat % 8 = 6 ∧ (0x7#64).toNat % 8 = 7 ∧ (0x8#64).toNat / 8 % 32 ≠ 0 ∧
    (0x0100000000000003#64).toNat / 2 ^ 56 ≠ 0 ∧ State.reset.phase = .idle ∧
    ({ ready with host := [.request 0x5#64 [] [] none] } : State).host = [.request 0x5#64 [] [] none] := by decide
theorem witness_AbsentBusPostsInvalidArgument : ready.resetIn = none ∧ ready.numBuses ≤ (1#8).toNat := by decide
/-- The first address outside, and the first length that reaches outside. -/
theorem witness_OutOfRangePostsInvalidArgument :
    ready.resetIn = none ∧ (0#8).toNat < ready.numBuses ∧
    ¬ ((0x800#16).toNat < ready.par.deviceSize ∧ (0x800#16).toNat + (0#16).toNat ≤ ready.par.deviceSize) ∧
    ¬ ((0x7FF#16).toNat < ready.par.deviceSize ∧ (0x7FF#16).toNat + (2#16).toNat ≤ ready.par.deviceSize) ∧
    ¬ (0x800#16).toNat < ready.par.deviceSize := by decide
theorem witness_ShortBufferIsAModelFault :
    ready.resetIn = none ∧ ready.Accepts 0 (0#16).toNat (21#16).toNat ∧ ready.src.length < (21#16).toNat ∧
    ready.dst.length < (21#16).toNat := ⟨rfl, ⟨by decide, by decide, by decide⟩, by decide, by decide⟩
theorem witness_UnusedFieldsAreIgnored : ready.resetIn = none := rfl
theorem witness_OldEngineRegistersNeverShow : isRequest (.read 0 0 5 0) = true ∧ ready.resetIn = none := by decide
theorem witness_ReadStatusRunsItsFourEvents : ready.resetIn = none ∧ (0#8).toNat < ready.numBuses := by decide
/-- The clause of a byte received and the clause of none. -/
theorem witness_ReadStatusRunsItsFourEvents_clauses :
    onNext (exec (.readStatus 0 0 0 0) ready) (fun t => t.resultStatus == 0) = true ∧
    onNext (exec (.readStatus 0 0 0 0) { ready with rxAnswers := [0] }) (fun t => t.resultStatus == 2) = true := by
  decide +kernel
theorem witness_ReadStatusReturnsTheRegister :
    ready.resetIn = none ∧ ready.device 0 = some blankDev ∧ ready.nextTx = true ∧ ready.rxAnswers = (65535 + 1) :: [65536] := by
  decide
theorem witness_ReadStatusFrame :
    ∃ s t, State.resetIn s = none ∧ (0#8).toNat < s.numBuses ∧ exec (.readStatus 0 0 0 0) s = .next t := by
  obtain ⟨t, h⟩ := next_of (o := exec (.readStatus 0 0 0 0) ready) (p := fun _ => true) (by decide +kernel)
  exact ⟨ready, t, rfl, by decide, h⟩
theorem witness_WriteStatusRunsItsEvents :
    ready.resetIn = none ∧ (0#8).toNat < ready.numBuses ∧ ready.txAnswers = true :: true :: [true, true, true] := by decide
theorem witness_WriteStatusRunsItsEvents_fails :
    ({ ready with txAnswers := [true, false] } : State).txAnswers = true :: false :: [] := rfl
theorem witness_WriteStatusWritesTheRegister :
    ready.resetIn = none ∧ ready.device 0 = some blankDev ∧ blankDev.wipMs = 0 ∧
    ¬ (blankDev.wpen = true ∧ ready.par.wpN = false) ∧ ready.txAnswers = true :: true :: [true, true, true] := by decide
/-- A device with WPEN = 1 and its pin asserted. -/
def lockedRig : State :=
  { rig { blankDev with wpen := true } [true, true] [] with par := { Config.Params.standard with wpN := false } }
theorem witness_LockedStatusWriteIsSilent :
    lockedRig.resetIn = none ∧ lockedRig.device 0 = some { blankDev with wpen := true } ∧
    ({ blankDev with wpen := true } : Device).wipMs = 0 ∧ ({ blankDev with wpen := true } : Device).wpen = true ∧
    lockedRig.par.wpN = false ∧ lockedRig.txAnswers = true :: true :: [] := by decide
theorem witness_WriteStatusFrame :
    ∃ s t, State.resetIn s = none ∧ (0#8).toNat < s.numBuses ∧ exec (.writeStatus 0 0 0 0x0C) s = .next t := by
  obtain ⟨t, h⟩ := next_of (o := exec (.writeStatus 0 0 0 0x0C) ready) (p := fun _ => true) (by decide +kernel)
  exact ⟨ready, t, rfl, by decide, h⟩
theorem witness_StatusRoundTrip :
    ready.resetIn = none ∧ ready.device 0 = some blankDev ∧ blankDev.wipMs = 0 ∧
    ¬ (blankDev.wpen = true ∧ ready.par.wpN = false) ∧ ready.par.tWcDevice ≤ 4 ∧
    ready.txAnswers = true :: true :: true :: [true, true] ∧ ready.rxAnswers = (65535 + 1) :: [65536] := by decide
theorem witness_ReadByteRunsItsEvents :
    ready.resetIn = none ∧ (0#8).toNat < ready.numBuses ∧ (0x7FF#16).toNat < ready.par.deviceSize := by decide
theorem witness_ReadByteReturnsTheByte :
    ready.resetIn = none ∧ ready.device 0 = some blankDev ∧ (0x7FF#16).toNat < ready.par.deviceSize ∧ blankDev.wipMs = 0 ∧
    ready.nextTx = true ∧ ready.rxAnswers = (65535 + 1) :: [65536] := by decide
theorem witness_ReadRunsItsEvents :
    ready.resetIn = none ∧ ready.Accepts 0 (0x7F0#16).toNat (16#16).toNat ∧ (16#16).toNat ≤ ready.dst.length :=
  ⟨rfl, ready_accepts, by decide⟩
/-- The clauses of all bytes received and of fewer. -/
theorem witness_ReadRunsItsEvents_clauses :
    onNext (exec (.read 0 0x7F0 16 0) ready) (fun t => t.resultStatus == 0) = true ∧
    onNext (exec (.read 0 0x7F0 16 0) { ready with rxAnswers := [15] }) (fun t => t.resultStatus == 1) = true := by
  decide +kernel
theorem witness_ReadFillsTheBuffer :
    ready.resetIn = none ∧ ready.Accepts 0 (0x7F0#16).toNat (16#16).toNat ∧ (16#16).toNat ≤ ready.dst.length ∧
    ready.device 0 = some blankDev ∧ blankDev.wipMs = 0 ∧ ready.nextTx = true ∧ ready.rxAnswers = 65536 :: [65536] ∧
    (16#16).toNat ≤ 65536 := ⟨rfl, ready_accepts, by decide, rfl, rfl, rfl, rfl, by decide⟩
theorem witness_ReadsFrame_read :
    ∃ s t, State.resetIn s = none ∧ (0#8).toNat < s.numBuses ∧ exec (.read 0 0x7F0 16 0) s = .next t ∧
      s.Accepts 0 (0x7F0#16).toNat (16#16).toNat := by
  obtain ⟨t, h⟩ := next_of (o := exec (.read 0 0x7F0 16 0) ready) (p := fun _ => true) (by decide +kernel)
  exact ⟨ready, t, rfl, by decide, h, ready_accepts⟩
theorem witness_ReadsFrame_readByte :
    ∃ s t, State.resetIn s = none ∧ (0#8).toNat < s.numBuses ∧ exec (.readByte 0 0x7FF 0 0) s = .next t ∧
      (0x7FF#16).toNat < s.par.deviceSize := by
  obtain ⟨t, h⟩ := next_of (o := exec (.readByte 0 0x7FF 0 0) ready) (p := fun _ => true) (by decide +kernel)
  exact ⟨ready, t, rfl, by decide, h, by decide⟩
theorem witness_WriteRunsToAResult :
    ready.resetIn = none ∧ ready.Accepts 0 (0x7F0#16).toNat (16#16).toNat ∧ (16#16).toNat ≤ ready.src.length :=
  ⟨rfl, ready_accepts, by decide⟩
theorem witness_PlanComputesTheChunk : (atLabel .wPlan).phase = .wPlan ∧ (atLabel .wPlan).resetIn = none := by decide
theorem witness_WriteSendsItsChunks :
    ready.par.Legal ∧ ready.resetIn = none ∧ ready.Accepts 0 (0x00A#16).toNat (20#16).toNat ∧
    (20#16).toNat ≤ ready.src.length ∧ ready.txAnswers = [true, true, true, true] ++ [true] ∧
    [true, true, true, true].length = 2 * chunkCount (0x00A#16).toNat (20#16).toNat :=
  ⟨by decide, rfl, ready_accepts_two, by decide, rfl, by decide⟩
/-- A script in which the second WRITE frame fails. -/
theorem witness_WriteSendsItsChunks_fails :
    ready.par.Legal ∧ ready.resetIn = none ∧ ready.Accepts 0 (0x00A#16).toNat (20#16).toNat ∧
    (20#16).toNat ≤ ready.src.length ∧
    ({ ready with txAnswers := [false, true, true, false, true] } : State).txAnswers = [false, true, true, false] ++ [true] ∧
    [false, true, true, false].length = 2 * chunkCount (0x00A#16).toNat (20#16).toNat ∧
    (writeEvents 0 ready.src (writeChunks (0x00A#16).toNat (20#16).toNat) [false, true, true, false]).2 = false :=
  ⟨by decide, rfl, ready_accepts_two, by decide, rfl, by decide, by decide⟩
theorem witness_ZeroLengthWriteSendsOneEmptyFrame :
    ready.resetIn = none ∧ ready.Accepts 0 (0x7FF#16).toNat 0 ∧ ready.txAnswers = true :: true :: [true, true, true] :=
  ⟨rfl, ready_accepts_none, rfl⟩
theorem witness_RequestsSendOnlySoundFrames : ∃ i s t, isRequest i = true ∧ exec i s = .next t :=
  witness_EveryRequestReturnsToIdle
theorem witness_OneChunkWritesItsBytes :
    (atLabel .wPlan).par.Legal ∧ (atLabel .wPlan).resetIn = none ∧ (atLabel .wPlan).phase = .wPlan ∧
    (atLabel .wPlan).device (atLabel .wPlan).reqBus = some blankDev ∧ Memory.wf blankDev.mem ∧
    1 ≤ (atLabel .wPlan).remLen.toNat ∧
    (atLabel .wPlan).curAddr.toNat + (atLabel .wPlan).remLen.toNat ≤ (atLabel .wPlan).par.deviceSize ∧
    (atLabel .wPlan).curOff.toNat + (atLabel .wPlan).remLen.toNat ≤ (atLabel .wPlan).src.length ∧ blankDev.wipMs = 0 ∧
    blankDev.protects (atLabel .wPlan).par ((atLabel .wPlan).curAddr.toNat - (atLabel .wPlan).curAddr.toNat % 16) = false ∧
    (atLabel .wPlan).par.tWcDevice ≤ 4 ∧ (atLabel .wPlan).txAnswers = true :: true :: [true, true, true] := by decide
theorem witness_WriteStoresExactlyItsBytes :
    ready.par.Legal ∧ ready.resetIn = none ∧ ready.Accepts 0 (0x00A#16).toNat (20#16).toNat ∧
    (20#16).toNat ≤ ready.src.length ∧ ready.device 0 = some blankDev ∧ Memory.wf blankDev.mem ∧ blankDev.wipMs = 0 ∧
    ready.par.tWcDevice ≤ 4 ∧ (∀ a, (0x00A#16).toNat ≤ a → a < (0x00A#16).toNat + (20#16).toNat →
      blankDev.protects ready.par a = false) ∧
    ready.txAnswers = List.replicate (2 * chunkCount (0x00A#16).toNat (20#16).toNat) true ++ [true] :=
  ⟨by decide, rfl, ready_accepts_two, by decide, rfl, by decide, rfl, by decide, fun a _ _ => ready_unprotected a, by decide⟩
theorem witness_WriteFrame :
    ∃ s t, s.par.Legal ∧ State.resetIn s = none ∧ s.Accepts 0 (0x00A#16).toNat (20#16).toNat ∧
      exec (.write 0 0x00A 20 0) s = .next t ∧
      s.txAnswers = List.replicate (2 * chunkCount (0x00A#16).toNat (20#16).toNat) true ++ [true] := by
  obtain ⟨t, h⟩ := next_of (o := exec (.write 0 0x00A 20 0) ready) (p := fun _ => true) (by decide +kernel)
  exact ⟨ready, t, by decide, rfl, ready_accepts_two, h, by decide⟩
/-- Everything protected. -/
def guarded : Device := { blankDev with bp1 := true, bp0 := true }
def guardedRig : State := { ready with buses := [{ cs := false, dev := guarded }] }
theorem witness_ProtectedWriteIsSilent :
    guardedRig.par.Legal ∧ guardedRig.resetIn = none ∧ guardedRig.Accepts 0 (0x00A#16).toNat (20#16).toNat ∧
    (20#16).toNat ≤ guardedRig.src.length ∧ guardedRig.device 0 = some guarded ∧
    guarded.protects guardedRig.par ((0x00A#16).toNat - (0x00A#16).toNat % 16) = true ∧
    guardedRig.txAnswers = List.replicate (2 * chunkCount (0x00A#16).toNat (20#16).toNat) true ++ [true] :=
  ⟨by decide, rfl, ⟨by decide, by decide, by decide⟩, by decide, rfl, rfl, by decide⟩
def slowRig : State := { ready with par := { Config.Params.standard with tWcDevice := 6 } }
theorem witness_SlowDeviceLosesTheSecondChunk :
    slowRig.par.Legal ∧ slowRig.resetIn = none ∧ slowRig.Accepts 0 (0x00A#16).toNat (20#16).toNat ∧
    (20#16).toNat ≤ slowRig.src.length ∧ slowRig.device 0 = some blankDev ∧ Memory.wf blankDev.mem ∧ blankDev.wipMs = 0 ∧
    4 < slowRig.par.tWcDevice ∧ (∀ a, (0x00A#16).toNat ≤ a → a < (0x00A#16).toNat + (20#16).toNat →
      blankDev.protects slowRig.par a = false) ∧
    chunkCount (0x00A#16).toNat (20#16).toNat = 2 ∧ slowRig.txAnswers = List.replicate 4 true ++ [true] :=
  ⟨by decide, rfl, ⟨by decide, by decide, by decide⟩, by decide, rfl, by decide, rfl, by decide, fun _ _ _ => rfl, by decide,
    rfl⟩
theorem witness_WriteReadRoundTrip :
    ready.par.Legal ∧ ready.resetIn = none ∧ ready.Accepts 0 (0x00A#16).toNat (20#16).toNat ∧
    (20#16).toNat ≤ ready.src.length ∧ (20#16).toNat ≤ twenty.length ∧ ready.device 0 = some blankDev ∧
    Memory.wf blankDev.mem ∧ blankDev.wipMs = 0 ∧ ready.par.tWcDevice ≤ 4 ∧
    (∀ a, (0x00A#16).toNat ≤ a → a < (0x00A#16).toNat + (20#16).toNat → blankDev.protects ready.par a = false) ∧
    ready.txAnswers = List.replicate (2 * chunkCount (0x00A#16).toNat (20#16).toNat + 1) true ++ [] ∧
    ready.rxAnswers = 65536 :: [65536] ∧ (20#16).toNat ≤ 65536 :=
  ⟨by decide, rfl, ready_accepts_two, by decide, by decide, rfl, by decide, rfl, by decide, fun a _ _ => ready_unprotected a,
    by decide, rfl, by decide⟩

/-- WREN and WRDI, at an idle device and at a busy one. -/
theorem witness_WrenSetsTheLatch_WrdiClearsTheLatch :
    ready.device ready.benchBus = some blankDev ∧ ready.nextTx = true ∧
    (rig busyDev [true] []).device (rig busyDev [true] []).benchBus = some busyDev ∧ (rig busyDev [true] []).nextTx = true := by
  decide
/-- Receive exchanges of one and of two bytes, both successful. -/
def oneByte : State := { rig welDev [true] [1, 2] with benchRx := [1, 2] }
/-- The same with a first exchange that fails and a busy device. -/
def oneByteLate : State := { rig busyDev [true] [0, 2] with benchRx := [1, 2] }
theorem witness_RdsrOutputsTheRegister :
    oneByte.device oneByte.benchBus = some welDev ∧ oneByte.nextTx = true ∧
    oneByteLate.device oneByteLate.benchBus = some busyDev ∧ oneByteLate.nextTx = true := by decide
/-- The clause of a successful exchange, and exchanges of each kind. -/
theorem witness_RdsrOutputsTheRegister_clauses :
    onNext (exec .rdsr oneByte) (fun t => t.benchGot.map List.length == [1, 2]) = true ∧
    onNext (exec .rdsr oneByteLate) (fun t => t.benchGot.map List.length == [0, 2]) = true := by decide +kernel
/-- The three clauses: no effect, locked, written. -/
theorem witness_WrsrWritesTheRegister :
    ready.device ready.benchBus = some blankDev ∧ ready.nextTx = true ∧ blankDev.wel = false ∧
    lockedRig.device lockedRig.benchBus = some { blankDev with wpen := true } ∧ lockedRig.nextTx = true ∧
    oneByte.device oneByte.benchBus = some welDev ∧ oneByte.nextTx = true ∧ welDev.wipMs = 0 ∧ welDev.wel = true ∧
    ¬ (welDev.wpen = true ∧ oneByte.par.wpN = false) := by decide
/-- An idle device with every exchange successful, and a busy one with a failed exchange. -/
theorem witness_ReadFrameStreamsTheArray :
    oneByte.device oneByte.benchBus = some welDev ∧ oneByte.nextTx = true ∧ welDev.wipMs = 0 ∧ oneByte.benchRx[1]? = some 2 ∧
    oneByteLate.device oneByteLate.benchBus = some busyDev ∧ oneByteLate.nextTx = true ∧ 0 < busyDev.wipMs := by
  decide
theorem witness_ReadFrameStreamsTheArray_clauses :
    onNext (exec (.readFrame 0x07FF) oneByte) (fun t => t.benchGot.map List.length == oneByte.benchRx) = true ∧
    onNext (exec (.readFrame 0x07FF) oneByteLate) (fun t => t.benchGot.map List.length == [0, 2]) = true := by
  decide +kernel
theorem witness_WriteFrameStoresInThePage :
    oneByte.device oneByte.benchBus = some welDev ∧ oneByte.nextTx = true ∧ Memory.wf welDev.mem ∧ welDev.wipMs = 0 ∧
    welDev.wel = true ∧ [0x11#8, 0x22#8, 0x33#8] ≠ [] ∧
    welDev.protects oneByte.par (devicePageBase oneByte.par 0x000E) = false := by decide
theorem witness_WriteFrameThatStoresNothing :
    guardedRig.device guardedRig.benchBus = some guarded ∧ guardedRig.nextTx = true ∧ guarded.wel = false ∧
    guarded.protects guardedRig.par (devicePageBase guardedRig.par 0x000A) = true := by decide
/-- The first protected address of each setting, and the last one that is not. -/
theorem witness_BlockProtectionCoversItsPart :
    ready.par.Legal ∧ 0x600 < ready.par.deviceSize ∧
    ({ blankDev with bp0 := true } : Device).protects ready.par 0x600 = true ∧
    ({ blankDev with bp0 := true } : Device).protects ready.par 0x5FF = false ∧
    ({ blankDev with bp1 := true } : Device).protects ready.par 0x400 = true ∧
    ({ blankDev with bp1 := true } : Device).protects ready.par 0x3FF = false ∧ guarded.protects ready.par 0 = true := by decide
theorem witness_FailedFrameGarblesOnlyItsCommand :
    (rig welDev [false] []).device (rig welDev [false] []).benchBus = some welDev ∧ (rig welDev [false] []).nextTx = false := by
  decide
def strange : State := { ready with host := [.frame 0 [0x9F] [3]] }
theorem witness_UnknownFrameIsIgnored :
    strange.phase = .idle ∧ strange.host = .frame 0 [0x9F] [3] :: [] ∧ (∀ i, decode (.frame [0x9F#8]) ≠ .instr i) ∧
    strange.device 0 = some blankDev := by
  refine ⟨rfl, rfl, fun i h => ?_, rfl⟩
  rw [show decode (.frame [0x9F#8]) = .rejected .reservedOpcode by decide] at h
  cases h
theorem witness_FramesLeaveTheBlockAlone : isRequest .wren = false ∧ isRequest (.readFrame 0) = false := by decide
theorem witness_WaitRunsDownTheWriteCycle :
    ({ ready with host := [.wait 4] } : State).phase = .idle ∧ ({ ready with host := [.wait 4] } : State).host = .wait 4 :: [] := by
  decide
/-- A WRITE abandoned before the Deselect of its WRITE frame. -/
def cutShort : State :=
  { atLabel .wDesel with
    resetIn := some 0, buses := [{ cs := true, dev := { welDev with selected := true, frame := [0x02, 0x00, 0x00, 0xAA] } }] }
theorem witness_ResetReturnsToIdle :
    cutShort.phase ≠ .idle ∧ cutShort.resetIn = some 0 ∧ cutShort.chipSelect 0 = some true ∧
    (cutShort.device 0).map (·.selected) = some true := by decide
/-- A READ of 5 bytes abandoned before its Deselect. -/
def readCutShort : State :=
  { atLabel .rDesel with
    reqOp := opRead, reqLen := 5, resetIn := some 0,
    buses := [{ cs := true, dev := { busyDev with selected := true, frame := [0x03, 0x00, 0x00] } }] }
theorem witness_ResetReturnsToIdle_read :
    readCutShort.phase ≠ .idle ∧ readCutShort.resetIn = some 0 ∧ readCutShort.reqOp = opRead ∧
    readCutShort.reqLen.toNat < readCutShort.dst.length ∧ readCutShort.chipSelect 0 = some true ∧
    (readCutShort.device 0).map (·.selected) = some true := by decide
theorem witness_ResetReturnsToIdle_idle :
    ({ ready with host := [.reset] } : State).phase = .idle ∧ ({ ready with host := [.reset] } : State).host = .reset :: [] ∧
    ready.chipSelect 0 = some false := by decide

/-- A state inside a request that meets the invariant: a READ of 5 bytes at its Select. -/
def readAtSelect : State := { ready with phase := .rSel, reqOp := opRead, reqLen := 5 }
theorem readAtSelect_inv : readAtSelect.Inv where
  params := by decide
  devices := fun u hu => by
    rw [List.mem_singleton.mp hu]
    exact ⟨by decide, by decide, rfl, fun _ => rfl⟩
  lines := fun b u hu => by
    cases b with
    | zero => cases hu; decide
    | succ n => cases hu
  registers := by decide
  request := fun _ _ => ⟨by decide, by decide, by decide, by decide, .inl rfl⟩
  splitter := fun h => by cases h
  planned := fun h => by cases h
  frames := fun _ _ _ h => by cases h
theorem witness_StepKeepsTheInvariant : ∃ s t, State.Inv s ∧ step s = .next t :=
  ⟨readAtSelect, lineRSel readAtSelect, readAtSelect_inv, rfl⟩
theorem witness_NoFaultPastDecode : ∃ s, State.Inv s ∧ s.phase ≠ .idle ∧ s.phase ≠ .decode :=
  ⟨readAtSelect, readAtSelect_inv, by decide, by decide⟩

end Sys2Proof.Tests
end

section
/-! SUPPORT. What one step can be, and how a run of lines carries a property. -/

namespace Sys2Proof.Machine

/-! ## An instruction that bits decode to runs those bits -/

theorem hi8_joinAddr (h l : BitVec 8) : hi8 (joinAddr h l) = h := by
  unfold hi8 joinAddr
  rw [BitVec.extractLsb'_append_eq_of_le (by decide)]
  exact BitVec.extractLsb'_eq_self

theorem lo8_joinAddr (h l : BitVec 8) : lo8 (joinAddr h l) = l := by
  unfold lo8 joinAddr
  rw [BitVec.extractLsb'_append_eq_of_add_le (by decide)]
  exact BitVec.extractLsb'_eq_self

/-- A descriptor that decodes is run as the request of its own fields (30_encoding.md R100, R101). -/
theorem exec_of_decodeRequest {w : BitVec 64} {i : Instr} (h : decodeRequest w = .instr i) (s : State) :
    exec i s = runRequest (splitDescriptor w) s := by
  unfold decodeRequest decodeFields at h
  generalize splitDescriptor w = d at h ⊢
  obtain ⟨op, rsv0, value, addr, len, bus, rsv1⟩ := d
  dsimp only at h
  split at h
  · cases h
  rename_i hrsv
  obtain ⟨rfl, rfl⟩ : rsv0 = 0 ∧ rsv1 = 0 := by simpa using hrsv
  split at h
  · rename_i hop; subst hop; cases h; rfl
  split at h
  · rename_i hop; subst hop; cases h; rfl
  split at h
  · rename_i hop; subst hop; cases h; rfl
  split at h
  · rename_i hop; subst hop; cases h; rfl
  split at h
  · rename_i hop; subst hop; cases h; rfl
  · cases h

/-- A frame that decodes is run as the transaction of its own bytes (43_device_commands.md R192): the branches of the decoder are
the six formats, each at its opcode and its length, and the address of a frame is put together from its own two bytes. -/
theorem exec_of_decodeFrame {bytes : List (BitVec 8)} {i : Instr} (h : decodeFrame bytes = .instr i) (s : State) :
    exec i s = .next (benchTransaction bytes s) := by
  unfold decodeFrame at h
  repeat' split at h
  all_goals cases h
  all_goals subst_vars
  all_goals simp [exec, execWrsr, execWriteFrame, execReadFrame, execWrdi, execRdsr, execWren, hi8_joinAddr, lo8_joinAddr,
    codeWrsr, codeWrite, codeRead, codeWrdi, codeRdsr, codeWren]

/-! ## The step, by what it takes -/

/-- What a step that answers a next state took: a line of the request in progress, or in IDLE nothing or one of the host's
actions (60_exceptions.md R243, R244, R248). -/
inductive StepTo (s : State) : State → Prop
  | line {t} (hp : s.phase ≠ .idle) (ht : tick s = .next t) : StepTo s t
  | waiting (hp : s.phase = .idle) (hh : s.host = []) : StepTo s s
  | request {t desc src dst cut rest} (hp : s.phase = .idle) (hh : s.host = .request desc src dst cut :: rest)
      (ht : runRequest (splitDescriptor desc) (s.attach src dst cut rest) = .next t) : StepTo s t
  | requestByLine {desc src dst cut rest} (hp : s.phase = .idle) (hh : s.host = .requestByLine desc src dst cut :: rest) :
      StepTo s ((s.attach src dst cut rest).accept (splitDescriptor desc))
  | wait {ms rest} (hp : s.phase = .idle) (hh : s.host = .wait ms :: rest) : StepTo s ({ s with host := rest }.passTime ms)
  | reset {rest} (hp : s.phase = .idle) (hh : s.host = .reset :: rest) : StepTo s { s with host := rest }.platformReset
  | frame {bus bytes rxs rest} (hp : s.phase = .idle) (hh : s.host = .frame bus bytes rxs :: rest) :
      StepTo s (benchTransaction bytes (s.attachFrame bus rxs rest))

theorem step_busy {s : State} (hp : s.phase ≠ .idle) : step s = tick s := by
  simp [step, fetch, hp]

theorem step_run {s t : State} {i : Instr} (hp : s.phase = .idle) (h : fetchHost s = .run i t) : step s = exec i t := by
  simp [step, fetch, hp, h]

theorem step_direct {s : State} {o : Out} (hp : s.phase = .idle) (h : fetchHost s = .direct o) : step s = o := by
  simp [step, fetch, hp, h]

/-- A request taken in IDLE is the run of its descriptor's fields, whether it decodes or not (60_exceptions.md R234, R243). -/
theorem step_request {s : State} {desc : BitVec 64} {src dst : List (BitVec 8)} {cut : Option Nat} {rest : List HostAction}
    (hp : s.phase = .idle) (hh : s.host = .request desc src dst cut :: rest) :
    step s = runRequest (splitDescriptor desc) (s.attach src dst cut rest) := by
  cases hd : decodeRequest desc with
  | instr i =>
    have hf : fetchHost s = .run i (s.attach src dst cut rest) := by simp only [fetchHost, hh, decode, hd]
    exact (step_run hp hf).trans (exec_of_decodeRequest hd _)
  | rejected e => exact step_direct hp (by simp only [fetchHost, hh, decode, hd])

/-- A frame taken in IDLE is the transaction of its bytes, whether they decode or not (43_device_commands.md R192, R202). -/
theorem step_frame {s : State} {bus : BitVec 8} {bytes : List (BitVec 8)} {rxs : List Nat} {rest : List HostAction}
    (hp : s.phase = .idle) (hh : s.host = .frame bus bytes rxs :: rest) :
    step s = .next (benchTransaction bytes (s.attachFrame bus rxs rest)) := by
  cases hd : decodeFrame bytes with
  | instr i =>
    have hf : fetchHost s = .run i (s.attachFrame bus rxs rest) := by simp only [fetchHost, hh, decode, hd]
    exact (step_run hp hf).trans (exec_of_decodeFrame hd _)
  | rejected e => exact step_direct hp (by simp only [fetchHost, hh, decode, hd])

theorem step_waiting {s : State} (hp : s.phase = .idle) (hh : s.host = []) : step s = .next s :=
  step_direct hp (by simp only [fetchHost, hh])

theorem step_requestByLine {s : State} {desc : BitVec 64} {src dst : List (BitVec 8)} {cut : Option Nat}
    {rest : List HostAction} (hp : s.phase = .idle) (hh : s.host = .requestByLine desc src dst cut :: rest) :
    step s = .next ((s.attach src dst cut rest).accept (splitDescriptor desc)) :=
  step_direct hp (by simp only [fetchHost, hh])

theorem step_wait {s : State} {ms : Nat} {rest : List HostAction} (hp : s.phase = .idle) (hh : s.host = .wait ms :: rest) :
    step s = .next ({ s with host := rest }.passTime ms) :=
  step_direct hp (by simp only [fetchHost, hh])

theorem step_reset {s : State} {rest : List HostAction} (hp : s.phase = .idle) (hh : s.host = .reset :: rest) :
    step s = .next { s with host := rest }.platformReset :=
  step_direct hp (by simp only [fetchHost, hh])

theorem step_cases {s t : State} (h : step s = .next t) : StepTo s t := by
  by_cases hp : s.phase = .idle
  · cases hh : s.host with
    | nil => exact Host.Outcome.next.inj ((step_waiting hp hh).symm.trans h) ▸ .waiting hp hh
    | cons a rest =>
      cases a with
      | request desc src dst cut => exact .request hp hh ((step_request hp hh).symm.trans h)
      | requestByLine desc src dst cut =>
        exact Host.Outcome.next.inj ((step_requestByLine hp hh).symm.trans h) ▸ .requestByLine hp hh
      | wait ms => exact Host.Outcome.next.inj ((step_wait hp hh).symm.trans h) ▸ .wait hp hh
      | reset => exact Host.Outcome.next.inj ((step_reset hp hh).symm.trans h) ▸ .reset hp hh
      | frame bus bytes rxs => exact Host.Outcome.next.inj ((step_frame hp hh).symm.trans h) ▸ .frame hp hh
  · exact .line hp ((step_busy hp).symm.trans h)

/-! ## Runs of lines -/

/-- A run that goes on from a request in progress goes on by one tick. -/
theorem runLines_succ_next {s t : State} {n : Nat} (hp : s.phase ≠ .idle) (h : runLines (n + 1) s = .next t) :
    ∃ u, tick s = .next u ∧ runLines n u = .next t := by
  cases hu : tick s with
  | next u => exact ⟨u, rfl, runLines_tick hp hu n ▸ h⟩
  | fault f => simp [runLines, hp, hu] at h
  | refused r => simp [runLines, hp, hu] at h

/-- What every line of a request in progress keeps, a run of lines keeps. -/
theorem runLines_keeps {P : State → Prop} (hstep : ∀ s t, P s → s.phase ≠ .idle → tick s = .next t → P t) :
    ∀ (n : Nat) (s t : State), P s → runLines n s = .next t → P t := by
  intro n
  induction n with
  | zero =>
    intro s t hs h
    cases h
    exact hs
  | succ n ih =>
    intro s t hs h
    by_cases hp : s.phase = .idle
    · rw [runLines_idle hp] at h
      cases h
      exact hs
    · obtain ⟨u, hu, hrun⟩ := runLines_succ_next hp h
      exact ih u t (hstep s u hs hp hu) hrun

/-- What acceptance gives and every line keeps holds at the end of a request (60_exceptions.md R243). -/
theorem runRequest_keeps {P : State → Prop} (hstep : ∀ s t, P s → s.phase ≠ .idle → tick s = .next t → P t)
    {d : Descriptor} {s t : State} (hs : P (s.accept d)) (h : runRequest d s = .next t) : P t :=
  runLines_keeps hstep _ _ _ hs h

/-- What every line keeps, whether or not a reset is coming, and a reset keeps too, every tick keeps. -/
theorem tick_keeps {P : State → Prop} (hcount : ∀ s k, P s → P { s with resetIn := k })
    (hline : ∀ s t, P s → line s = .next t → P t) (hreset : ∀ s, P s → P s.platformReset) {s t : State} (hs : P s)
    (h : tick s = .next t) : P t := by
  unfold tick at h
  split at h
  · exact hline s t hs h
  · cases h
    exact hreset s hs
  · exact hline _ t (hcount s _ hs) h

theorem run_succ_of_step {M : Host.Core} {s u : M.State} (h : M.step s = .next u) (k : Nat) : M.run (k + 1) s = M.run k u := by
  simp [Host.Core.run, h]

/-- The steps of a request in progress are its lines, one a step (10_state.md R32). -/
theorem run_of_runLines : ∀ (n : Nat) (s t : State), runLines n s = .next t → ∃ k, core.run k s = .next t := by
  intro n
  induction n with
  | zero => exact fun s t h => ⟨0, h⟩
  | succ n ih =>
    intro s t h
    by_cases hp : s.phase = .idle
    · rw [runLines_idle hp] at h
      exact ⟨0, h⟩
    · obtain ⟨u, hu, hrun⟩ := runLines_succ_next hp h
      obtain ⟨k, hk⟩ := ih u t hrun
      exact ⟨k + 1, (run_succ_of_step (M := core) ((step_busy hp).trans hu) k).trans hk⟩

/-- Settles O11: the steps after acceptance are the lines of the whole request. -/
theorem lineByLineReachesTheWholeRequest : Obligations.LineByLineReachesTheWholeRequest := by
  unfold Obligations.LineByLineReachesTheWholeRequest
  intro s t desc src dst cut rest hp h
  rw [step_request (by exact hp) rfl] at h
  obtain ⟨k, hk⟩ := run_of_runLines _ _ _ h
  exact ⟨k + 1, (run_succ_of_step (M := core) (step_requestByLine (by exact hp) rfl) k).trans hk⟩

end Sys2Proof.Machine
end

section
/-! SUPPORT. The one transport event of each label, and what it fixes of the state after the line. -/

namespace Sys2Proof.Machine

/-! ## Staging and sending a frame -/

/-- Tx of the bytes `xs` on the request's bus, whatever STAGE holds (00_scope.md R16). -/
def State.send (xs : List (BitVec 8)) (s : State) : State :=
  (s.deviceTx s.reqBus xs).record (.tx s.reqBus xs s.nextTx)

/-- A staged frame is what is sent, whatever STAGE held before (10_state.md R36). -/
theorem State.stageBytes_transmit (s : State) (xs : List (BitVec 8)) :
    (s.stageBytes xs).transmit = (s.send xs).stageBytes xs := by
  rw [State.transmit, State.stageBytes_staged]
  rfl

@[simp] theorem State.send_trace (s : State) (xs : List (BitVec 8)) :
    (s.send xs).trace = s.trace ++ [.tx s.reqBus xs s.nextTx] := rfl

@[simp] theorem State.send_par (s : State) (xs : List (BitVec 8)) : (s.send xs).par = s.par := rfl

@[simp] theorem State.send_numBuses (s : State) (xs : List (BitVec 8)) : (s.send xs).numBuses = s.numBuses := by
  simp [State.send, State.deviceTx]

/-! ## Slices of a buffer -/

/-- A slice that is there is the bytes asked for (00_scope.md R17). -/
theorem sliceBytes_eq_some {buf data : List (BitVec 8)} {i n : Nat} (h : sliceBytes buf i n = some data) :
    data = (buf.drop i).take n ∧ data.length = n := by
  unfold sliceBytes at h
  split at h
  · cases h
    refine ⟨rfl, ?_⟩
    rw [List.length_take, List.length_drop]
    omega
  · cases h

/-- A store that fits leaves the buffer as long as it was (00_scope.md R17). -/
theorem length_of_storeBytes {buf xs dst : List (BitVec 8)} (h : storeBytes buf xs = some dst) : dst.length = buf.length := by
  unfold storeBytes at h
  split at h
  · cases h
    rw [overwritePrefix, List.length_append, List.length_drop]
    omega
  · cases h

/-! ## The event of a label -/

/-- The bytes of SRC the planned chunk carries (41_page_write.md R148). -/
def State.chunkData (s : State) : List (BitVec 8) := (s.src.drop s.curOff.toNat).take s.chunkLen

/-- How many bytes R_DATA asks for (42_read_engine.md R172, R176). -/
def State.rxCount (s : State) : Nat := if s.reqOp = opReadByte then 1 else s.reqLen.toNat

/-- The state after the one event of PHASE's label (10_state.md R32). -/
def State.labelEvent (s : State) : State :=
  match s.phase with
  | .idle | .decode | .wPlan => s
  | .wEnSel | .wSel | .rSel | .sSel | .wsEnSel | .wsSel => s.select
  | .wEnTx | .wsEnTx => s.send wrenBytes
  | .wTx => s.send (writeBytes s.curAddr s.chunkData)
  | .rCmd => s.send (readBytes s.reqAddr)
  | .sCmd => s.send rdsrBytes
  | .wsTx => s.send (wrsrBytes s.reqValue)
  | .rData => s.receive s.rxCount
  | .sData => s.receive 1
  | .wEnDesel | .wDesel | .rDesel | .sDesel | .wsEnDesel | .wsDesel => s.deselect
  | .wDelay | .wsDelay | .rDelay => s.delay 4

/-- What only an event writes is in `t` as the event left it in `u`. -/
structure State.EventsAs (u t : State) : Prop where
  trace : t.trace = u.trace
  buses : t.buses = u.buses
  par   : t.par = u.par

theorem State.EventsAs.refl (u : State) : u.EventsAs u := ⟨rfl, rfl, rfl⟩

theorem lineDecode_eventsAs {s t : State} (h : lineDecode s = .next t) : s.EventsAs t := by
  unfold lineDecode at h
  repeat' split at h
  all_goals cases h
  · exact ⟨rfl, rfl, rfl⟩
  · exact ⟨rfl, rfl, rfl⟩
  · exact ⟨rfl, rfl, rfl⟩
  · unfold State.startOperation
    repeat' split
    all_goals exact ⟨rfl, rfl, rfl⟩

theorem lineWTx_next {s t : State} (h : lineWTx s = .next t) :
    s.chunkData.length = s.chunkLen ∧
      t = (((s.send (writeBytes s.curAddr s.chunkData)).stageBytes (writeBytes s.curAddr s.chunkData)).setXferOk s.nextTx).goto
        .wDesel := by
  unfold lineWTx at h
  cases hd : sliceBytes s.src s.curOff.toNat s.chunkLen with
  | none => simp [hd] at h
  | some data =>
    obtain ⟨hdata, hlen⟩ := sliceBytes_eq_some hd
    rw [hd] at h
    cases h
    rw [State.stageBytes_transmit]
    subst hdata
    exact ⟨hlen, rfl⟩

/-- What R_DATA of READ puts in DST (42_read_engine.md R176, R179). -/
def State.runBytes (s : State) : List (BitVec 8) :=
  if s.nextRx s.reqLen.toNat = s.reqLen.toNat then s.rxBytes s.reqBus s.reqLen.toNat
  else anyBytes (s.receive s.reqLen.toNat).draws s.reqLen.toNat

theorem lineRDataRun_overrun {s : State} (h : storeBytes s.dst s.runBytes = none) : lineRDataRun s = .fault .destOverrun := by
  unfold State.runBytes at h
  unfold lineRDataRun
  dsimp only
  rw [h]

theorem lineRDataRun_stored {s : State} {dst : List (BitVec 8)} (h : storeBytes s.dst s.runBytes = some dst) :
    lineRDataRun s = .next (((((s.receive s.reqLen.toNat).drew
      (if s.nextRx s.reqLen.toNat = s.reqLen.toNat then 0 else s.reqLen.toNat)).setDst dst).setXferOk
        (decide (s.nextRx s.reqLen.toNat = s.reqLen.toNat))).goto .rDesel) := by
  unfold State.runBytes at h
  unfold lineRDataRun
  dsimp only
  rw [h]

/-- R_DATA of READ is its receive exchange, with DST of the same length (42_read_engine.md R176, R179). -/
theorem lineRDataRun_next {s t : State} (h : lineRDataRun s = .next t) :
    ∃ k dst, dst.length = s.dst.length ∧
      t = ((((s.receive s.reqLen.toNat).drew k).setDst dst).setXferOk (decide (s.nextRx s.reqLen.toNat = s.reqLen.toNat))).goto
        .rDesel := by
  cases hdst : storeBytes s.dst s.runBytes with
  | none =>
    rw [lineRDataRun_overrun hdst] at h
    cases h
  | some dst =>
    rw [lineRDataRun_stored hdst] at h
    exact ⟨_, dst, length_of_storeBytes hdst, (Host.Outcome.next.inj h).symm⟩

/-- A line is the event of its label and writes of registers (10_state.md R32). -/
theorem line_eventsAs {s t : State} (h : line s = .next t) : s.labelEvent.EventsAs t := by
  unfold State.labelEvent
  unfold line at h
  cases hp : s.phase <;> simp only [hp] at h ⊢
  case idle => cases h; exact .refl s
  case decode => exact lineDecode_eventsAs h
  case wTx =>
    obtain ⟨-, rfl⟩ := lineWTx_next h
    exact ⟨rfl, rfl, rfl⟩
  case rData =>
    unfold lineRData at h
    unfold State.rxCount
    split at h
    · cases h
      rw [if_pos ‹_›]
      exact ⟨rfl, rfl, rfl⟩
    · obtain ⟨k, dst, -, rfl⟩ := lineRDataRun_next h
      rw [if_neg ‹_›]
      exact ⟨rfl, rfl, rfl⟩
  case wEnTx | rCmd | sCmd | wsEnTx | wsTx =>
    cases h
    simp only [lineWEnTx, lineRCmd, lineSCmd, lineWsEnTx, lineWsTx, State.stageBytes_transmit]
    exact ⟨rfl, rfl, rfl⟩
  case wDesel =>
    cases h
    unfold lineWDesel
    split <;> exact ⟨rfl, rfl, rfl⟩
  case wDelay =>
    cases h
    unfold lineWDelay
    split <;> exact ⟨rfl, rfl, rfl⟩
  case rDesel =>
    cases h
    unfold lineRDesel
    repeat' split
    all_goals exact ⟨rfl, rfl, rfl⟩
  case sDesel =>
    cases h
    unfold lineSDesel
    split <;> exact ⟨rfl, rfl, rfl⟩
  case wsDesel =>
    cases h
    unfold lineWsDesel
    split <;> exact ⟨rfl, rfl, rfl⟩
  all_goals cases h; exact ⟨rfl, rfl, rfl⟩

theorem State.labelEvent_trace (s : State) : s.labelEvent.trace = s.trace ++ labelEvents s := by
  unfold State.labelEvent labelEvents
  cases s.phase <;>
    simp [wrenBytes, writeBytes, readBytes, rdsrBytes, wrsrBytes, State.chunkData, State.rxCount]

theorem State.labelEvent_par (s : State) : s.labelEvent.par = s.par := by
  unfold State.labelEvent
  cases s.phase <;> rfl

theorem State.labelEvent_numBuses (s : State) : s.labelEvent.numBuses = s.numBuses := by
  unfold State.labelEvent
  cases s.phase <;> simp

/-- Settles O9: a step of a request in progress is its label's line, and the line's trace is its event's. -/
theorem eachLabelPerformsItsOneEvent : Obligations.EachLabelPerformsItsOneEvent := by
  unfold Obligations.EachLabelPerformsItsOneEvent
  intro s t hp hr h
  rw [step_busy hp, tick_of_noReset hr] at h
  rw [(line_eventsAs h).trace, State.labelEvent_trace]

/-! ## The parameters and the number of buses -/

/-- The open parameters and NUM_BUSES are the same (00_scope.md section 3). -/
def State.SameParameters (s t : State) : Prop := t.par = s.par ∧ t.numBuses = s.numBuses

theorem line_sameParameters {s t : State} (h : line s = .next t) : s.SameParameters t := by
  have he := line_eventsAs h
  refine ⟨he.par.trans s.labelEvent_par, ?_⟩
  rw [← s.labelEvent_numBuses, State.numBuses, he.buses, State.numBuses]

theorem length_dropChipSelects (par : Config.Params) : ∀ (us : List BusUnit) (k : Nat),
    (dropChipSelects par k us).length = us.length
  | [], _ => rfl
  | _ :: us, k => congrArg (· + 1) (length_dropChipSelects par us (k + deselectDraws))

theorem State.platformReset_sameParameters (s : State) : s.SameParameters s.platformReset :=
  ⟨rfl, length_dropChipSelects s.par s.buses s.draws⟩

theorem tick_sameParameters {r s t : State} (hs : r.SameParameters s) (h : tick s = .next t) : r.SameParameters t := by
  refine tick_keeps (P := r.SameParameters) (fun _ _ hs => hs) (fun u v hu huv => ?_) (fun u hu => ?_) hs h
  · obtain ⟨h1, h2⟩ := line_sameParameters huv
    exact ⟨h1.trans hu.1, h2.trans hu.2⟩
  · obtain ⟨h1, h2⟩ := u.platformReset_sameParameters
    exact ⟨h1.trans hu.1, h2.trans hu.2⟩

theorem benchReceive_sameParameters (b : BitVec 8) : ∀ (rxs : List Nat) (s : State), s.SameParameters (benchReceive b rxs s)
  | [], _ => ⟨rfl, rfl⟩
  | n :: rest, s => by
    obtain ⟨h1, h2⟩ := benchReceive_sameParameters b rest (benchReceiveOne b n s)
    refine ⟨h1, h2.trans ?_⟩
    show (s.deviceRx b n).numBuses = s.numBuses
    simp [State.deviceRx]

theorem benchOpen_sameParameters (bytes : List (BitVec 8)) (s : State) : s.SameParameters (benchOpen bytes s) := by
  have e : ({ s with benchGot := [] }.deviceSelect s.benchBus).numBuses = s.numBuses := State.onDevice_numBuses _ _ _
  rw [benchOpen, benchTransmit]
  split
  · exact ⟨rfl, e⟩
  · refine ⟨rfl, ?_⟩
    rw [State.deviceTx, State.dropTx_numBuses, State.onDevice_numBuses, e]

theorem benchTransaction_sameParameters (bytes : List (BitVec 8)) (s : State) :
    s.SameParameters (benchTransaction bytes s) := by
  obtain ⟨h1, h2⟩ := benchOpen_sameParameters bytes s
  obtain ⟨h3, h4⟩ := benchReceive_sameParameters s.benchBus s.benchRx (benchOpen bytes s)
  rw [benchTransaction_eq]
  refine ⟨h3.trans h1, ?_⟩
  rw [State.deviceDeselect, State.drew_numBuses, State.onDevice_numBuses, h4, h2]

/-- Settles O12: every line and every reset keeps them, and so does each of the host's other actions. -/
theorem stepKeepsTheParameters : Obligations.StepKeepsTheParameters := by
  unfold Obligations.StepKeepsTheParameters
  intro s t h
  have hs : s.SameParameters s := ⟨rfl, rfl⟩
  cases step_cases h with
  | line hp ht => exact tick_sameParameters hs ht
  | waiting => exact hs
  | request hp hh ht => exact runRequest_keeps (P := s.SameParameters) (fun _ _ hu _ => tick_sameParameters hu) (by exact hs) ht
  | requestByLine => exact hs
  | wait => exact ⟨rfl, State.passTime_numBuses _ _⟩
  | reset => exact State.platformReset_sameParameters _
  | frame => exact benchTransaction_sameParameters _ _

end Sys2Proof.Machine
end

section
/-! SUPPORT. The invariant of the machine: its clauses over the buses, over the registers and over the request in progress, and
what each operation of the state does to them. -/

namespace Sys2Proof.Machine

/-! ## The array of a device -/

/-- The array is in canonical form, inside the device (10_state.md R42). -/
def Device.MemSound (par : Config.Params) (d : Device) : Prop := Memory.wf d.mem ∧ Memory.within par.deviceSize d.mem

section
variable {par : Config.Params} (hl : par.Legal) (k : Nat) {d : Device}
include hl

theorem Device.MemSound.writePage (a : BitVec 16) (o : Nat) (data : List (BitVec 8)) (h : d.MemSound par) :
    Memory.wf (Memory.writePage d.mem (devicePageBase par a) o data) ∧
      Memory.within par.deviceSize (Memory.writePage d.mem (devicePageBase par a) o data) :=
  ⟨Memory.wf_writePage _ _ _ h.1, Memory.within_writePage (devicePage_in hl a) _ _ h.2⟩

theorem Device.MemSound.doWrite (a : BitVec 16) (data : List (BitVec 8)) (h : d.MemSound par) :
    (d.doWrite par k a data).MemSound par := by
  unfold Device.doWrite
  repeat' split
  · exact h
  · exact h
  · exact h
  · exact h
  · exact h.writePage hl a _ data

omit hl in
theorem Device.doWrsr_mem (v : BitVec 8) : (d.doWrsr par k v).mem = d.mem := by
  unfold Device.doWrsr
  repeat' split
  all_goals rfl

omit hl in
theorem Device.doWren_mem : d.doWren.mem = d.mem := by
  unfold Device.doWren
  split <;> rfl

omit hl in
theorem Device.doWrdi_mem : d.doWrdi.mem = d.mem := by
  unfold Device.doWrdi
  split <;> rfl

omit hl in
theorem Device.MemSound.of_mem_eq {e : Device} (he : e.mem = d.mem) (h : d.MemSound par) : e.MemSound par := by
  unfold Device.MemSound
  rw [he]
  exact h

theorem Device.MemSound.command (h : d.MemSound par) : (d.command par k).MemSound par := by
  unfold Device.command
  split
  · exact h.of_mem_eq Device.doWren_mem
  · exact h.of_mem_eq Device.doWrdi_mem
  · exact h.of_mem_eq (Device.doWrsr_mem k _)
  · exact h.doWrite hl k _ _
  · exact h

theorem Device.MemSound.garbled (h : d.MemSound par) : (d.garbled par k).MemSound par := by
  unfold Device.garbled
  split
  · exact h
  · exact h
  · exact h
  · exact h.writePage hl _ _ _
  · exact h

/-- Whatever a Deselect does, it leaves the array canonical (43_device_commands.md R192, R203). -/
theorem Device.MemSound.onDeselect (h : d.MemSound par) : (d.onDeselect par k).MemSound par := by
  unfold Device.onDeselect
  dsimp only
  split
  · split
    · exact h.garbled hl k
    · exact h.command hl k
  · exact h

end

/-! ## The buses -/

theorem BusUnit.Sound.memSound {par : Config.Params} {u : BusUnit} (h : u.Sound par) : u.dev.MemSound par :=
  ⟨h.memWf, h.memWithin⟩

/-- A unit whose line has just fallen is sound when its array is (43_device_commands.md R192). -/
theorem BusUnit.sound_released {par : Config.Params} {d : Device} (hm : d.MemSound par) (hs : d.selected = false)
    (hf : d.frame = []) : BusUnit.Sound par { cs := false, dev := d } :=
  ⟨hm.1, hm.2, hs, fun _ => hf⟩

/-- A unit whose line is asserted is sound when its array is and its device is selected. -/
theorem BusUnit.sound_asserted {par : Config.Params} {d : Device} (hm : d.MemSound par) (hs : d.selected = true) :
    BusUnit.Sound par { cs := true, dev := d } :=
  ⟨hm.1, hm.2, hs, fun h => by cases h⟩

/-- Every bus is sound, and its line is asserted exactly where it is bus `b` and `sel` says so (10_state.md R38). -/
def BusesFollow (par : Config.Params) (sel : Bool) (b : BitVec 8) (us : List BusUnit) : Prop :=
  ∀ i u, us[i]? = some u → u.Sound par ∧ (u.cs = true ↔ sel = true ∧ i = b.toNat)

section
variable {par : Config.Params} {sel sel' : Bool} {b : BitVec 8} {us : List BusUnit}

/-- While no bus is selected it does not matter which one the request names. -/
theorem BusesFollow.of_released (h : BusesFollow par false b us) (c : BitVec 8) : BusesFollow par false c us := by
  intro i u hi
  obtain ⟨h1, h2⟩ := h i u hi
  exact ⟨h1, h2.trans (by simp)⟩

/-- The bus of the request changed, with its line as `sel'` says. -/
theorem BusesFollow.modify {f : BusUnit → BusUnit} (h : BusesFollow par sel b us)
    (hf : ∀ u, u.Sound par → u.cs = sel → (f u).Sound par ∧ (f u).cs = sel') :
    BusesFollow par sel' b (us.modify b.toNat f) := by
  intro i u hi
  rw [List.getElem?_modify] at hi
  obtain ⟨u₀, hu₀, rfl⟩ := Option.map_eq_some_iff.1 hi
  obtain ⟨hsound, hcs⟩ := h i u₀ hu₀
  by_cases hb : b.toNat = i
  · obtain ⟨h1, h2⟩ := hf u₀ hsound (Bool.eq_iff_iff.2 (by simpa [hb] using hcs))
    simpa [hb, h2] using h1
  · have hi : i ≠ b.toNat := Ne.symm hb
    have hoff : u₀.cs = false := by simpa [hi] using hcs
    simpa [hb, hi] using ⟨hsound, hoff⟩

/-- Every bus changed, with its line left as it was. -/
theorem BusesFollow.map {f : BusUnit → BusUnit} (h : BusesFollow par sel b us)
    (hf : ∀ u, u.Sound par → (f u).Sound par ∧ (f u).cs = u.cs) : BusesFollow par sel b (us.map f) := by
  intro i u hi
  rw [List.getElem?_map] at hi
  obtain ⟨u₀, hu₀, rfl⟩ := Option.map_eq_some_iff.1 hi
  obtain ⟨hsound, hcs⟩ := h i u₀ hu₀
  obtain ⟨h1, h2⟩ := hf u₀ hsound
  exact ⟨h1, h2 ▸ hcs⟩

/-- After the chip-select drop of a reset every unit is sound and released (70_reset_and_hazards.md R261). -/
theorem dropChipSelect_released (hl : par.Legal) (k : Nat) {u : BusUnit} (h : u.Sound par) :
    (dropChipSelect par k u).Sound par ∧ (dropChipSelect par k u).cs = false := by
  unfold dropChipSelect
  split
  · have hm : ({ u.dev with taint := true } : Device).MemSound par := h.memSound
    exact ⟨BusUnit.sound_released (hm.onDeselect hl k) rfl rfl, rfl⟩
  · rename_i hcs
    exact ⟨h, by simpa using hcs⟩

theorem mem_dropChipSelects {u : BusUnit} : ∀ {us : List BusUnit} {k : Nat}, u ∈ dropChipSelects par k us →
    ∃ u₀ ∈ us, ∃ k', u = dropChipSelect par k' u₀
  | [], _, h => by cases h
  | u₀ :: us, k, h => by
    rcases List.mem_cons.1 h with rfl | h
    · exact ⟨u₀, List.mem_cons_self .., k, rfl⟩
    · obtain ⟨u₁, hu₁, k', e⟩ := mem_dropChipSelects h
      exact ⟨u₁, List.mem_cons_of_mem _ hu₁, k', e⟩

theorem BusesFollow.drop (hl : par.Legal) (k : Nat) (h : BusesFollow par sel b us) (c : BitVec 8) :
    BusesFollow par false c (dropChipSelects par k us) := by
  intro i u hi
  obtain ⟨u₀, hu₀, k', rfl⟩ := mem_dropChipSelects (List.mem_of_getElem? hi)
  obtain ⟨j, hj⟩ := List.getElem?_of_mem hu₀
  obtain ⟨h1, h2⟩ := dropChipSelect_released hl k' (h j u₀ hj).1
  exact ⟨h1, by simp [h2]⟩

end

/-! ## Frames -/

/-- A frame of the block: a command of the right length and of one page, other than WRDI (41_page_write.md R152). -/
def FrameSound (bytes : List (BitVec 8)) : Prop := ∃ i, decodeFrame bytes = .instr i ∧ i.wellFormed = true ∧ i ≠ .wrdi

theorem frameSound_wren : FrameSound wrenBytes := ⟨.wren, rfl, rfl, by simp⟩
theorem frameSound_rdsr : FrameSound rdsrBytes := ⟨.rdsr, rfl, rfl, by simp⟩
theorem frameSound_wrsr (v : BitVec 8) : FrameSound (wrsrBytes v) := ⟨.wrsr v, rfl, rfl, by simp⟩
theorem frameSound_read (a : BitVec 16) : FrameSound (readBytes a) := ⟨.readFrame a, decodeFrame_read a, rfl, by simp⟩

theorem frameSound_write {a : BitVec 16} {data : List (BitVec 8)} (h : data.length ≤ pageRemaining a.toNat) :
    FrameSound (writeBytes a data) := by
  refine ⟨.writeFrame a data, decodeFrame_write a data, ?_, by simp⟩
  simp only [Instr.wellFormed, Instr.dataFits, Instr.dataInPage, Bool.and_eq_true, decide_eq_true_eq]
  simp only [pageRemaining, Config.pageSize] at *
  omega

theorem FramesSound.append {trace : List Event} {e : Event} (h : FramesSound trace)
    (he : ∀ b bytes ok, e = .tx b bytes ok → FrameSound bytes) : FramesSound (trace ++ [e]) := by
  intro b bytes ok hmem
  rcases List.mem_append.1 hmem with hmem | hmem
  · exact h b bytes ok hmem
  · exact he b bytes ok (List.mem_singleton.1 hmem).symm

/-! ## The clauses that look at the buses, the registers' ranges and the trace -/

/-- 10_state.md R34, R36. -/
def State.InRange (s : State) : Prop :=
  s.stage.length = Config.stageSize ∧ s.stageLen ≤ Config.stageSize ∧
    1 ≤ s.pageRem ∧ s.pageRem ≤ Config.pageSize ∧ s.chunkLen ≤ Config.pageSize

/-- The clauses of the invariant that depend on PHASE only by whether the request's bus is selected. -/
def State.InvAt (sel : Bool) (s : State) : Prop :=
  s.par.Legal ∧ BusesFollow s.par sel s.reqBus s.buses ∧ s.InRange ∧ FramesSound s.trace

section
variable {sel : Bool} {s : State}

theorem State.InvAt.select (h : s.InvAt false) : s.select.InvAt true := by
  obtain ⟨hl, hb, hr, hf⟩ := h
  refine ⟨hl, ?_, hr, hf.append (by simp)⟩
  have hbuses : s.select.buses = s.buses.modify s.reqBus.toNat fun u => { cs := true, dev := u.dev.onSelect } :=
    List.modify_modify_eq ..
  rw [hbuses]
  exact hb.modify fun u hu _ => ⟨BusUnit.sound_asserted hu.memSound rfl, rfl⟩

theorem State.InvAt.deselect (h : s.InvAt true) : s.deselect.InvAt false := by
  obtain ⟨hl, hb, hr, hf⟩ := h
  refine ⟨hl, ?_, hr, hf.append (by simp)⟩
  have hbuses : s.deselect.buses =
      s.buses.modify s.reqBus.toNat fun u => { cs := false, dev := u.dev.onDeselect s.par s.draws } :=
    List.modify_modify_eq ..
  rw [hbuses]
  exact hb.modify fun u hu _ => ⟨BusUnit.sound_released (hu.memSound.onDeselect hl _) rfl rfl, rfl⟩

theorem State.InvAt.send {xs : List (BitVec 8)} (h : s.InvAt true) (hx : FrameSound xs) : (s.send xs).InvAt true := by
  obtain ⟨hl, hb, hr, hf⟩ := h
  refine ⟨hl, ?_, hr, hf.append fun _ _ _ e => by cases e; exact hx⟩
  exact hb.modify fun u hu hcs => by
    rw [hcs]
    exact ⟨BusUnit.sound_asserted hu.memSound (hu.selected.trans hcs), rfl⟩

theorem State.InvAt.receive (h : s.InvAt true) (n : Nat) : (s.receive n).InvAt true := by
  obtain ⟨hl, hb, hr, hf⟩ := h
  refine ⟨hl, ?_, hr, hf.append (by simp)⟩
  refine hb.modify fun u hu hcs => ?_
  rw [hcs]
  split
  · exact ⟨BusUnit.sound_asserted hu.memSound (hu.selected.trans hcs), rfl⟩
  · exact ⟨BusUnit.sound_asserted hu.memSound (hu.selected.trans hcs), rfl⟩

theorem BusUnit.Sound.passTime {par : Config.Params} {u : BusUnit} (h : u.Sound par) (ms : Nat) :
    BusUnit.Sound par { u with dev := u.dev.passTime ms } := ⟨h.memWf, h.memWithin, h.selected, h.frameEmpty⟩

theorem State.InvAt.passTime (h : s.InvAt sel) (ms : Nat) : (s.passTime ms).InvAt sel := by
  obtain ⟨hl, hb, hr, hf⟩ := h
  exact ⟨hl, hb.map fun u hu => ⟨hu.passTime ms, rfl⟩, hr, hf⟩

theorem State.InvAt.delay (h : s.InvAt sel) (ms : Nat) : (s.delay ms).InvAt sel := by
  obtain ⟨hl, hb, hr, hf⟩ := h.passTime ms
  exact ⟨hl, hb, hr, hf.append (by simp)⟩

theorem State.InvAt.stageBytes {xs : List (BitVec 8)} (h : s.InvAt sel) (hx : xs.length ≤ Config.stageSize) :
    (s.stageBytes xs).InvAt sel := by
  obtain ⟨hl, hb, ⟨h1, -, h3⟩, hf⟩ := h
  refine ⟨hl, hb, ⟨?_, hx, h3⟩, hf⟩
  rw [State.stageBytes_stage, overwritePrefix, List.length_append, List.length_drop]
  omega

theorem State.InvAt.sendStaged {xs : List (BitVec 8)} (h : s.InvAt true) (hx : FrameSound xs)
    (hn : xs.length ≤ Config.stageSize) : (s.stageBytes xs).transmit.InvAt true := by
  rw [State.stageBytes_transmit]
  exact (h.send hx).stageBytes hn

theorem State.InvAt.planChunk (h : s.InvAt sel) : s.planChunk.InvAt sel := by
  obtain ⟨hl, hb, ⟨h1, h2, -⟩, hf⟩ := h
  obtain ⟨h3, h4⟩ := pageRemaining_bounds s.curAddr.toNat
  exact ⟨hl, hb, ⟨h1, h2, h3, h4, (chunkLength_le_page _ _).trans h4⟩, hf⟩

/-- Acceptance names the bus of the new request and empties the trace (60_exceptions.md R243). -/
theorem State.InvAt.accept (h : s.InvAt false) (d : Descriptor) : (s.accept d).InvAt false := by
  obtain ⟨hl, hb, hr, -⟩ := h
  exact ⟨hl, hb.of_released _, hr, fun _ _ _ hmem => by cases hmem⟩

/-- A reset leaves every engine register in its range and every line released (10_state.md R48,
70_reset_and_hazards.md R260). -/
theorem State.InvAt.platformReset (h : s.InvAt sel) : s.platformReset.InvAt false := by
  obtain ⟨hl, hb, -, hf⟩ := h
  refine ⟨hl, hb.drop hl _ _, ⟨length_anyBytes _ _, ?_, ?_, ?_, ?_⟩, hf⟩
  · exact Nat.le_of_lt_succ (Nat.mod_lt _ (by decide))
  · exact Nat.le_add_left _ _
  · exact Nat.mod_lt _ (by decide)
  · exact Nat.le_of_lt_succ (Nat.mod_lt _ (by decide))

end

/-! ## A direct frame -/

/-- From `us` to `vs` the device on bus `b` has changed at most, and its array has not. -/
def ArrayKept (b : BitVec 8) (us vs : List BusUnit) : Prop :=
  ∃ f : Device → Device, (∀ d, (f d).mem = d.mem) ∧ vs = us.modify b.toNat fun u => { u with dev := f u.dev }

theorem ArrayKept.refl (b : BitVec 8) (us : List BusUnit) : ArrayKept b us us :=
  ⟨id, fun _ => rfl, (List.modify_id _ us).symm⟩

theorem ArrayKept.trans {b : BitVec 8} {us vs ws : List BusUnit} (h : ArrayKept b us vs) (h' : ArrayKept b vs ws) :
    ArrayKept b us ws := by
  obtain ⟨f, hf, rfl⟩ := h
  obtain ⟨g, hg, rfl⟩ := h'
  exact ⟨g ∘ f, fun d => (hg _).trans (hf d), List.modify_modify_eq ..⟩

theorem arrayKept_deviceSelect (b : BitVec 8) (s : State) : ArrayKept b s.buses (s.deviceSelect b).buses :=
  ⟨Device.onSelect, fun _ => rfl, rfl⟩

theorem arrayKept_deviceTx (b : BitVec 8) (xs : List (BitVec 8)) (s : State) : ArrayKept b s.buses (s.deviceTx b xs).buses :=
  ⟨Device.onTx xs s.nextTx, fun _ => rfl, rfl⟩

theorem arrayKept_deviceRx (b : BitVec 8) (n : Nat) (s : State) : ArrayKept b s.buses (s.deviceRx b n).buses :=
  ⟨fun d => if s.nextRx n = n then d.onRx n else d, fun d => by split <;> rfl, rfl⟩

theorem arrayKept_benchReceive (b : BitVec 8) : ∀ (rxs : List Nat) (s : State),
    ArrayKept b s.buses (benchReceive b rxs s).buses
  | [], s => .refl b s.buses
  | n :: rest, s => (arrayKept_deviceRx b n s).trans (arrayKept_benchReceive b rest (benchReceiveOne b n s))

theorem arrayKept_benchOpen (bytes : List (BitVec 8)) (s : State) : ArrayKept s.benchBus s.buses (benchOpen bytes s).buses := by
  have hsel := arrayKept_deviceSelect s.benchBus { s with benchGot := [] }
  unfold benchOpen benchTransmit
  split
  · exact hsel
  · exact hsel.trans (arrayKept_deviceTx ..)

/-- A direct frame is one Deselect of its device, after operations that leave the array alone (log entry 13). -/
theorem benchTransaction_buses (bytes : List (BitVec 8)) (s : State) : ∃ (f : Device → Device) (k : Nat),
    (∀ d, (f d).mem = d.mem) ∧ (benchTransaction bytes s).buses =
      s.buses.modify s.benchBus.toNat fun u => { u with dev := Device.onDeselect s.par k (f u.dev) } := by
  obtain ⟨f, hmem, hbuses⟩ := (arrayKept_benchOpen bytes s).trans (arrayKept_benchReceive s.benchBus s.benchRx _)
  have hpar : (benchReceive s.benchBus s.benchRx (benchOpen bytes s)).par = s.par :=
    (benchReceive_sameParameters _ _ _).1.trans (benchOpen_sameParameters _ _).1
  rw [benchTransaction_eq]
  generalize benchReceive s.benchBus s.benchRx (benchOpen bytes s) = v at hbuses hpar
  refine ⟨f, v.draws, hmem, ?_⟩
  have hlast : (v.deviceDeselect s.benchBus).buses =
      v.buses.modify s.benchBus.toNat fun u => { u with dev := Device.onDeselect v.par v.draws u.dev } := rfl
  rw [hlast, hbuses, hpar, List.modify_modify_eq]
  rfl

/-- A direct frame leaves its device closed and every line as it was. -/
theorem State.InvAt.benchTransaction {s : State} (h : s.InvAt false) (bytes : List (BitVec 8)) :
    (benchTransaction bytes s).InvAt false := by
  obtain ⟨hl, hb, hr, hf⟩ := h
  obtain ⟨f, k, hmem, hbuses⟩ := benchTransaction_buses bytes s
  obtain ⟨bs, _, _, _, _, hrest⟩ := benchTransaction_rest bytes s
  rw [hrest] at hbuses ⊢
  obtain rfl : bs = _ := hbuses
  refine ⟨hl, ((hb.of_released s.benchBus).modify fun u hu hcs => ?_).of_released s.reqBus, hr, hf⟩
  rw [hcs]
  exact ⟨BusUnit.sound_released ((hu.memSound.of_mem_eq (hmem _)).onDeselect hl k) rfl rfl, rfl⟩

/-! ## The clauses that look at the request in progress -/

/-- DECODE's checks are past (60_exceptions.md R236). -/
def State.Checked (s : State) : Prop :=
  s.descriptorOk = true ∧ s.busOk = true ∧ s.boundsOk = true ∧ s.bufferFault = none

/-- The splitter's sums (41_page_write.md R140, R144). -/
def State.Sums (s : State) : Prop :=
  s.curAddr.toNat + s.remLen.toNat = s.reqAddr.toNat + s.reqLen.toNat ∧ s.curOff.toNat + s.remLen.toNat = s.reqLen.toNat

/-- The next chunk is planned (41_page_write.md R141, R142). -/
def State.Planned (s : State) : Prop :=
  s.pageRem = pageRemaining s.curAddr.toNat ∧ s.chunkLen = chunkLength s.curAddr.toNat s.remLen.toNat

/-- The invariant, by what its clauses look at. -/
theorem State.inv_iff {s : State} : s.Inv ↔ s.InvAt s.phase.selecting ∧
    (s.phase ≠ .idle → s.phase ≠ .decode → s.Checked ∧ s.phase.runs s.reqOp) ∧
    (s.phase.ofWrite = true → s.Sums) ∧ (s.phase.ofWrite = true → s.phase ≠ .wPlan → s.Planned) := by
  constructor
  · intro h
    refine ⟨⟨h.params, fun i u hi => ⟨h.devices u (List.mem_of_getElem? hi), h.lines i u hi⟩, h.registers, h.frames⟩,
      fun h1 h2 => ?_, h.splitter, h.planned⟩
    obtain ⟨c1, c2, c3, c4, hop⟩ := h.request h1 h2
    exact ⟨⟨c1, c2, c3, c4⟩, hop⟩
  · rintro ⟨⟨hl, hb, hr, hf⟩, hreq, hsum, hplan⟩
    refine ⟨hl, fun u hu => ?_, fun i u hi => (hb i u hi).2, hr, fun h1 h2 => ?_, hsum, hplan, hf⟩
    · obtain ⟨i, hi⟩ := List.getElem?_of_mem hu
      exact (hb i u hi).1
    · obtain ⟨⟨c1, c2, c3, c4⟩, hop⟩ := hreq h1 h2
      exact ⟨c1, c2, c3, c4, hop⟩

theorem State.InvAt.inv_of_idle {s : State} (h : s.InvAt false) (hp : s.phase = .idle) : s.Inv := by
  have hw : s.phase.ofWrite ≠ true := by rw [hp]; decide
  exact State.inv_iff.2 ⟨by rwa [hp], fun h1 => absurd hp h1, fun h1 => absurd h1 hw, fun h1 => absurd h1 hw⟩

theorem State.InvAt.inv_of_decode {s : State} (h : s.InvAt false) (hp : s.phase = .decode) : s.Inv := by
  have hw : s.phase.ofWrite ≠ true := by rw [hp]; decide
  exact State.inv_iff.2 ⟨by rwa [hp], fun _ h2 => absurd hp h2, fun h1 => absurd h1 hw, fun h1 => absurd h1 hw⟩

/-- A request ends with every line released (60_exceptions.md R241). -/
theorem State.InvAt.finish {s : State} (h : s.InvAt false) (st : Status) (v : BitVec 8) : (s.finish st v).Inv :=
  State.InvAt.inv_of_idle (s := s.finish st v) h rfl

/-- The latched request (60_exceptions.md R243). -/
def State.latched (s : State) : Descriptor :=
  { op := s.reqOp, rsv0 := s.reqRsv0, value := s.reqValue, addr := s.reqAddr, len := s.reqLen, bus := s.reqBus,
    rsv1 := s.reqRsv1 }

/-- What no event writes: the latched request, the parameters, the splitter, SRC, and the length of DST. -/
def State.RequestKept (s t : State) : Prop :=
  s.SameParameters t ∧ t.latched = s.latched ∧ s.SplitterKept t ∧ t.src = s.src ∧ t.dst.length = s.dst.length

section
variable (s : State)

theorem State.select_requestKept : s.RequestKept s.select :=
  ⟨⟨rfl, s.select_numBuses⟩, rfl, ⟨rfl, rfl, rfl, rfl, rfl⟩, rfl, rfl⟩

theorem State.deselect_requestKept : s.RequestKept s.deselect :=
  ⟨⟨rfl, s.deselect_numBuses⟩, rfl, ⟨rfl, rfl, rfl, rfl, rfl⟩, rfl, rfl⟩

theorem State.sendStaged_requestKept (xs : List (BitVec 8)) : s.RequestKept (s.stageBytes xs).transmit :=
  ⟨⟨rfl, (s.stageBytes xs).transmit_numBuses⟩, rfl, ⟨rfl, rfl, rfl, rfl, rfl⟩, rfl, rfl⟩

theorem State.receive_requestKept (n : Nat) : s.RequestKept (s.receive n) :=
  ⟨⟨rfl, s.receive_numBuses n⟩, rfl, ⟨rfl, rfl, rfl, rfl, rfl⟩, rfl, rfl⟩

theorem State.delay_requestKept (ms : Nat) : s.RequestKept (s.delay ms) :=
  ⟨⟨rfl, s.delay_numBuses ms⟩, rfl, ⟨rfl, rfl, rfl, rfl, rfl⟩, rfl, rfl⟩

end

section
variable {s t : State}

theorem State.Checked.of_kept (h : s.Checked) (hpar : s.SameParameters t) (hlatched : t.latched = s.latched)
    (hsrc : t.src = s.src) (hdst : t.dst.length = s.dst.length) : t.Checked := by
  obtain ⟨hp, hn⟩ := hpar
  simp only [State.latched, Descriptor.mk.injEq] at hlatched
  obtain ⟨hop, hrsv0, -, haddr, hlen, hbus, hrsv1⟩ := hlatched
  unfold State.Checked State.descriptorOk State.busOk State.boundsOk State.bufferFault at *
  rw [hp, hn, hop, hrsv0, haddr, hlen, hbus, hrsv1, hsrc, hdst]
  exact h

theorem State.Sums.of_kept (h : s.Sums) (hlatched : t.latched = s.latched) (hsplit : s.SplitterKept t) : t.Sums := by
  obtain ⟨h1, h2, h3, -, -⟩ := hsplit
  simp only [State.latched, Descriptor.mk.injEq] at hlatched
  obtain ⟨-, -, -, haddr, hlen, -, -⟩ := hlatched
  unfold State.Sums at *
  rwa [h1, h2, h3, haddr, hlen]

theorem State.Planned.of_kept (h : s.Planned) (hsplit : s.SplitterKept t) : t.Planned := by
  obtain ⟨h1, -, h3, h4, h5⟩ := hsplit
  unfold State.Planned at *
  rwa [h1, h3, h4, h5]

/-- The labels that may follow one another inside an operation, with the splitter left alone. -/
def Phase.LeadsTo (p q : Phase) : Prop :=
  p ≠ .idle ∧ p ≠ .decode ∧ (∀ op, p.runs op → q.runs op) ∧ (q.ofWrite = true → p.ofWrite = true ∧ p ≠ .wPlan)

/-- A line that performs its event and goes on inside its operation keeps the invariant. -/
theorem State.Inv.goto {p q : Phase} (h : s.Inv) (hp : s.phase = p) (hpq : p.LeadsTo q) (ht : t.InvAt q.selecting)
    (hk : s.RequestKept t) : (t.goto q).Inv := by
  subst hp
  obtain ⟨hidle, hdecode, hruns, hwrite⟩ := hpq
  obtain ⟨-, hreq, hsum, hplan⟩ := State.inv_iff.1 h
  obtain ⟨hpar, hlatched, hsplit, hsrc, hdst⟩ := hk
  obtain ⟨hchecked, hop⟩ := hreq hidle hdecode
  refine State.inv_iff.2 ⟨ht, fun _ _ => ⟨?_, ?_⟩, fun hw => ?_, fun hw _ => ?_⟩
  · exact hchecked.of_kept (t := t) hpar hlatched hsrc hdst
  · have e : t.reqOp = s.reqOp := congrArg Descriptor.op hlatched
    exact hruns _ (show s.phase.runs t.reqOp from e ▸ hop)
  · exact (hsum (hwrite hw).1).of_kept (t := t) hlatched hsplit
  · exact (hplan (hwrite hw).1 (hwrite hw).2).of_kept (t := t) hsplit

theorem State.Inv.at {p : Phase} (h : s.Inv) (hp : s.phase = p) : s.InvAt p.selecting := hp ▸ (State.inv_iff.1 h).1

end

end Sys2Proof.Machine
end

section
/-! SUPPORT. Every line keeps the invariant, and so does every step. -/

namespace Sys2Proof.Machine

section
variable {s t : State} {p q : Phase}

/-! ## Lines of one event, between labels whose places in the operation are plain facts about the labels -/

/-- A Select inside an operation. -/
theorem State.Inv.select_goto (h : s.Inv) (hp : s.phase = p) (hs : p.selecting = false := by rfl)
    (hq : q.selecting = true := by rfl)
    (hpq : p.LeadsTo q := by exact ⟨by decide, by decide, fun _ h => h, by decide⟩) : (s.select.goto q).Inv :=
  h.goto hp hpq (hq ▸ (hs ▸ h.at hp : s.InvAt false).select) s.select_requestKept

/-- A Deselect inside an operation. -/
theorem State.Inv.deselect_goto (h : s.Inv) (hp : s.phase = p) (hs : p.selecting = true := by rfl)
    (hq : q.selecting = false := by rfl)
    (hpq : p.LeadsTo q := by exact ⟨by decide, by decide, fun _ h => h, by decide⟩) : (s.deselect.goto q).Inv :=
  h.goto hp hpq (hq ▸ (hs ▸ h.at hp : s.InvAt true).deselect) s.deselect_requestKept

/-- A Deselect that ends an operation. -/
theorem State.Inv.deselect_finish (h : s.Inv) (hp : s.phase = p) (st : Status) (v : BitVec 8)
    (hs : p.selecting = true := by rfl) : (s.deselect.finish st v).Inv :=
  (hs ▸ h.at hp : s.InvAt true).deselect.finish st v

/-- A delay that ends an operation. -/
theorem State.Inv.delay_finish (h : s.Inv) (hp : s.phase = p) (ms : Nat) (st : Status) (v : BitVec 8)
    (hs : p.selecting = false := by rfl) : ((s.delay ms).finish st v).Inv :=
  ((hs ▸ h.at hp : s.InvAt false).delay ms).finish st v

/-- A transmit exchange of a frame of the block. -/
theorem State.Inv.sendStaged_goto {xs : List (BitVec 8)} (h : s.Inv) (hp : s.phase = p) (hx : FrameSound xs)
    (hn : xs.length ≤ Config.stageSize) (hs : p.selecting = true := by rfl) (hq : q.selecting = true := by rfl)
    (hpq : p.LeadsTo q := by exact ⟨by decide, by decide, fun _ h => h, by decide⟩) :
    ((s.stageBytes xs).transmit.goto q).Inv :=
  h.goto hp hpq (hq ▸ (hs ▸ h.at hp : s.InvAt true).sendStaged hx hn) (s.sendStaged_requestKept xs)

/-- A receive exchange. -/
theorem State.Inv.receive_goto (h : s.Inv) (hp : s.phase = p) (n : Nat) (hs : p.selecting = true := by rfl)
    (hq : q.selecting = true := by rfl)
    (hpq : p.LeadsTo q := by exact ⟨by decide, by decide, fun _ h => h, by decide⟩) : ((s.receive n).goto q).Inv :=
  h.goto hp hpq (hq ▸ (hs ▸ h.at hp : s.InvAt true).receive n) (s.receive_requestKept n)

/-! ## Registers the invariant does not look at -/

theorem State.Inv.setXferOk (h : s.Inv) (ok : Bool) : (s.setXferOk ok).Inv :=
  State.inv_iff.2 (State.inv_iff (s := s).1 h)

theorem State.Inv.setRxByte (h : s.Inv) (v : BitVec 8) : (s.setRxByte v).Inv :=
  State.inv_iff.2 (State.inv_iff (s := s).1 h)

theorem State.Inv.drew (h : s.Inv) (k : Nat) : (s.drew k).Inv :=
  State.inv_iff.2 (State.inv_iff (s := s).1 h)

theorem State.Inv.setResetIn (h : s.Inv) (k : Option Nat) : { s with resetIn := k }.Inv :=
  State.inv_iff.2 (State.inv_iff (s := s).1 h)

theorem State.Inv.setDst (h : s.Inv) {dst : List (BitVec 8)} (hd : dst.length = s.dst.length) : (s.setDst dst).Inv := by
  obtain ⟨hat, hreq, hsum, hplan⟩ := State.inv_iff.1 h
  refine State.inv_iff.2 ⟨hat, fun h1 h2 => ?_, hsum, hplan⟩
  obtain ⟨hc, hop⟩ := hreq h1 h2
  exact ⟨hc.of_kept ⟨rfl, rfl⟩ rfl rfl hd, hop⟩

/-! ## DECODE -/

/-- An operation other than WRITE starts at a label with the checks past and no splitter. -/
theorem State.InvAt.goto (h : s.InvAt p.selecting) (hc : s.Checked) (hop : p.runs s.reqOp) (hw : p.ofWrite = false) :
    (s.goto p).Inv := by
  refine State.inv_iff.2 ⟨h, fun _ _ => ⟨hc, hop⟩, fun hw' => ?_, fun hw' => ?_⟩ <;>
    exact absurd (hw.symm.trans hw') Bool.false_ne_true

/-- Past the checks of DECODE an operation starts at its first label (60_exceptions.md R236, R243). -/
theorem State.InvAt.startOperation (h : s.InvAt false) (hc : s.Checked) : s.startOperation.Inv := by
  obtain ⟨-, -, hops⟩ := of_decide_eq_true hc.1
  unfold State.startOperation
  split
  · rename_i hop
    exact State.inv_iff.2 ⟨h, fun _ _ => ⟨hc, hop⟩, fun _ => ⟨rfl, by simp⟩, fun _ hne => absurd rfl hne⟩
  split
  · rename_i hop
    exact State.InvAt.goto h hc hop rfl
  split
  · rename_i hop
    exact State.InvAt.goto h hc hop rfl
  · rename_i h1 h2 h3
    have hop : s.reqOp = opWriteStatus := by tauto
    exact State.InvAt.goto h hc hop rfl

theorem lineDecode_keepsInv (h : s.Inv) (hp : s.phase = .decode) (ht : lineDecode s = .next t) : t.Inv := by
  have hat : s.InvAt false := h.at hp
  unfold lineDecode at ht
  split at ht
  · cases ht; exact hat.finish _ _
  split at ht
  · cases ht; exact hat.finish _ _
  split at ht
  · cases ht; exact hat.finish _ _
  split at ht
  · cases ht
  · rename_i h1 h2 h3 _ h4
    cases ht
    exact hat.startOperation ⟨by simpa using h1, by simpa using h2, by simpa using h3, h4⟩

/-! ## WRITE -/

/-- The facts about a WRITE in progress past its plan (41_page_write.md R140 to R144). -/
theorem State.Inv.writeFacts (h : s.Inv) (hp : s.phase = p) (hw : p.ofWrite = true := by rfl)
    (hplan : p ≠ .wPlan := by decide) (hidle : p ≠ .idle := by decide) (hdec : p ≠ .decode := by decide) :
    (s.Checked ∧ p.runs s.reqOp) ∧ s.Sums ∧ s.Planned := by
  subst hp
  obtain ⟨-, hreq, hsum, hpl⟩ := State.inv_iff.1 h
  exact ⟨hreq hidle hdec, hsum hw, hpl hw hplan⟩

theorem lineWPlan_keepsInv (h : s.Inv) (hp : s.phase = .wPlan) : (lineWPlan s).Inv := by
  obtain ⟨hat, hreq, hsum, -⟩ := State.inv_iff.1 h
  have hw : s.phase.ofWrite = true := by rw [hp]; rfl
  have hc := hreq (by rw [hp]; decide) (by rw [hp]; decide)
  rw [hp] at hat hc
  exact State.inv_iff.2 ⟨hat.planChunk, fun _ _ => hc, fun _ => hsum hw, fun _ _ => ⟨rfl, rfl⟩⟩

/-- The WRITE frame of a chunk fits STAGE and its page (41_page_write.md R148, R152). -/
theorem lineWTx_keepsInv (h : s.Inv) (hp : s.phase = .wTx) (ht : lineWTx s = .next t) : t.Inv := by
  obtain ⟨hlen, rfl⟩ := lineWTx_next ht
  obtain ⟨-, -, -, hplan⟩ := h.writeFacts hp
  have hpage : s.chunkData.length ≤ pageRemaining s.curAddr.toNat := by
    rw [hlen, hplan]
    exact chunkLength_le_page _ _
  have hstage : (writeBytes s.curAddr s.chunkData).length ≤ Config.stageSize := by
    have := (pageRemaining_bounds s.curAddr.toNat).2
    simp only [writeBytes, List.length_append, List.length_cons, List.length_nil, Config.stageSize]
    omega
  rw [← State.stageBytes_transmit]
  exact (h.sendStaged_goto (q := .wDesel) hp (frameSound_write hpage) hstage).setXferOk _

/-- Past a chunk that is not the last the splitter's sums hold again (41_page_write.md R144). -/
theorem State.Sums.advanceChunk (hsum : s.Sums) (hplan : s.Planned) (hlast : s.chunkLen ≠ s.remLen.toNat)
    (hbound : s.reqAddr.toNat + s.reqLen.toNat ≤ 65536) : s.advanceChunk.Sums := by
  obtain ⟨h1, h2⟩ := hsum
  have hle : s.chunkLen ≤ s.remLen.toNat := by rw [hplan.2]; exact chunkLength_le_rem _ _
  have hlt := s.remLen.isLt
  unfold State.Sums
  simp only [State.advanceChunk_curAddr, State.advanceChunk_curOff, State.advanceChunk_remLen, State.advanceChunk_reqAddr,
    State.advanceChunk_reqLen, BitVec.toNat_add, BitVec.toNat_sub, BitVec.toNat_ofNat]
  omega

theorem lineWDelay_keepsInv (h : s.Inv) (hp : s.phase = .wDelay) : (lineWDelay s).Inv := by
  unfold lineWDelay
  split
  · exact h.delay_finish hp _ _ _
  · rename_i hlast
    obtain ⟨⟨hc, hop⟩, hsum, hplan⟩ := h.writeFacts hp
    obtain ⟨hpar, hlatched, hsplit, hsrc, hdst⟩ := s.delay_requestKept Config.writeCycleMs
    have hat : (s.delay Config.writeCycleMs).InvAt false := (h.at hp).delay _
    have hbound : s.reqAddr.toNat + s.reqLen.toNat ≤ 65536 := by
      obtain ⟨-, -, hbounds, -⟩ := hc
      rw [State.boundsOk, if_pos (.inl hop)] at hbounds
      obtain ⟨-, hin⟩ := of_decide_eq_true hbounds
      obtain ⟨-, hsize, -⟩ := h.params
      omega
    refine State.inv_iff.2 ⟨hat, fun _ _ => ⟨?_, hop⟩, fun _ => ?_, fun _ hne => absurd rfl hne⟩
    · exact hc.of_kept (t := ((s.delay Config.writeCycleMs).advanceChunk.goto .wPlan)) hpar hlatched hsrc hdst
    · exact State.Sums.advanceChunk (s := s.delay Config.writeCycleMs) hsum hplan hlast hbound

/-! ## The other engines -/

theorem State.Inv.receiveByte_goto (h : s.Inv) (hp : s.phase = p) (hs : p.selecting = true := by rfl)
    (hq : q.selecting = true := by rfl)
    (hpq : p.LeadsTo q := by exact ⟨by decide, by decide, fun _ h => h, by decide⟩) : (s.receiveByte.goto q).Inv :=
  ((h.receive_goto hp 1 hs hq hpq).setXferOk _).setRxByte _

theorem lineRData_keepsInv (h : s.Inv) (hp : s.phase = .rData) (ht : lineRData s = .next t) : t.Inv := by
  unfold lineRData at ht
  split at ht
  · cases ht
    exact h.receiveByte_goto hp
  · obtain ⟨k, dst, hd, rfl⟩ := lineRDataRun_next ht
    exact (((h.receive_goto (q := .rDesel) hp _).drew k).setDst hd).setXferOk _

theorem lineWDesel_keepsInv (h : s.Inv) (hp : s.phase = .wDesel) : (lineWDesel s).Inv := by
  unfold lineWDesel
  split
  · exact h.deselect_goto hp
  · exact h.deselect_finish hp _ _

theorem lineRDesel_keepsInv (h : s.Inv) (hp : s.phase = .rDesel) : (lineRDesel s).Inv := by
  unfold lineRDesel
  split
  · exact h.deselect_finish hp _ _
  split
  · exact h.deselect_goto hp
  · exact h.deselect_finish hp _ _

theorem lineSDesel_keepsInv (h : s.Inv) (hp : s.phase = .sDesel) : (lineSDesel s).Inv := by
  unfold lineSDesel
  split
  · exact h.deselect_finish hp _ _
  · exact h.deselect_finish hp _ _

theorem lineWsDesel_keepsInv (h : s.Inv) (hp : s.phase = .wsDesel) : (lineWsDesel s).Inv := by
  unfold lineWsDesel
  split
  · exact h.deselect_goto hp
  · exact h.deselect_finish hp _ _

/-! ## Every line, every reset and every step -/

theorem line_keepsInv (h : s.Inv) (ht : line s = .next t) : t.Inv := by
  unfold line at ht
  cases hp : s.phase <;> simp only [hp] at ht
  case decode => exact lineDecode_keepsInv h hp ht
  case wTx => exact lineWTx_keepsInv h hp ht
  case rData => exact lineRData_keepsInv h hp ht
  all_goals cases ht
  case idle => exact h
  case wPlan => exact lineWPlan_keepsInv h hp
  case wEnSel => exact h.select_goto hp
  case wEnTx => exact h.sendStaged_goto hp frameSound_wren (by decide)
  case wEnDesel => exact h.deselect_goto hp
  case wSel => exact h.select_goto hp
  case wDesel => exact lineWDesel_keepsInv h hp
  case wDelay => exact lineWDelay_keepsInv h hp
  case rSel => exact h.select_goto hp
  case rCmd => exact h.sendStaged_goto hp (frameSound_read _) (show 3 ≤ 19 by decide)
  case rDesel => exact lineRDesel_keepsInv h hp
  case rDelay => exact h.delay_finish hp _ _ _
  case sSel => exact h.select_goto hp
  case sCmd => exact h.sendStaged_goto hp frameSound_rdsr (by decide)
  case sData => exact h.receiveByte_goto hp
  case sDesel => exact lineSDesel_keepsInv h hp
  case wsEnSel => exact h.select_goto hp
  case wsEnTx => exact h.sendStaged_goto hp frameSound_wren (by decide)
  case wsEnDesel => exact h.deselect_goto hp
  case wsSel => exact h.select_goto hp
  case wsTx => exact (h.sendStaged_goto (q := .wsDesel) hp (frameSound_wrsr _) (show 2 ≤ 19 by decide)).setXferOk _
  case wsDesel => exact lineWsDesel_keepsInv h hp
  case wsDelay => exact h.delay_finish hp _ _ _

theorem State.Inv.platformReset (h : s.Inv) : s.platformReset.Inv :=
  State.InvAt.inv_of_idle (h.at rfl).platformReset rfl

theorem tick_keepsInv (h : s.Inv) (ht : tick s = .next t) : t.Inv :=
  tick_keeps (fun _ k hs => hs.setResetIn k) (fun _ _ hs => line_keepsInv hs) (fun _ hs => hs.platformReset) h ht

end

/-- Settles O58: a line, a reset, an acceptance, a wait and a direct frame each keep the invariant, and a whole request is
lines. -/
theorem stepKeepsTheInvariant : Obligations.StepKeepsTheInvariant := by
  unfold Obligations.StepKeepsTheInvariant
  intro s t h hst
  cases step_cases hst with
  | line hp ht => exact tick_keepsInv h ht
  | waiting => exact h
  | @request _ desc src dst cut rest hp hh ht =>
    have hat : (s.attach src dst cut rest).InvAt false := h.at hp
    exact runRequest_keeps (P := State.Inv) (fun _ _ hs _ => tick_keepsInv hs) ((hat.accept _).inv_of_decode rfl) ht
  | @requestByLine desc src dst cut rest hp hh =>
    have hat : (s.attach src dst cut rest).InvAt false := h.at hp
    exact (hat.accept _).inv_of_decode rfl
  | @wait ms rest hp hh =>
    have hat : { s with host := rest }.InvAt false := h.at hp
    exact (hat.passTime ms).inv_of_idle hp
  | @reset rest hp hh =>
    have hat : { s with host := rest }.InvAt false := h.at hp
    exact hat.platformReset.inv_of_idle rfl
  | @frame bus bytes rxs rest hp hh =>
    have hat : (s.attachFrame bus rxs rest).InvAt false := h.at hp
    refine (hat.benchTransaction bytes).inv_of_idle ?_
    obtain ⟨_, _, _, _, _, e⟩ := benchTransaction_rest bytes (s.attachFrame bus rxs rest)
    rw [e]
    exact hp

/-! ## The state after reset -/

/-- A machine of the one bus that reset has (10_state.md R48). -/
theorem State.reset_buses {b : Nat} {u : BusUnit} (h : State.reset.buses[b]? = some u) :
    b = 0 ∧ u = { cs := false, dev := Device.powerUp } := by
  cases b with
  | zero => exact ⟨rfl, (Option.some.inj h).symm⟩
  | succ n => cases h

/-- Settles O57: at reset no request is in progress, every line is released and every memory is empty. -/
theorem invariantHoldsAtReset : Obligations.InvariantHoldsAtReset := by
  unfold Obligations.InvariantHoldsAtReset
  refine State.InvAt.inv_of_idle ⟨by decide, fun i u hu => ?_, by unfold State.InRange; decide,
    fun _ _ _ hmem => by cases hmem⟩ rfl
  obtain ⟨-, rfl⟩ := State.reset_buses hu
  exact ⟨BusUnit.sound_released ⟨Memory.wf_nil, fun _ hc => by cases hc⟩ rfl rfl, by simp⟩

/-- Settles O56: each clause is a field of the one bus or of the parameters of the state after reset. -/
theorem resetStateIsTheSpecs : Obligations.ResetStateIsTheSpecs := by
  unfold Obligations.ResetStateIsTheSpecs
  refine ⟨rfl, fun b hb => ?_, rfl, rfl, rfl, fun b d hd => ?_⟩
  · have hb0 : b.toNat = 0 := Nat.lt_one_iff.1 hb
    rw [State.chipSelect, hb0]
    rfl
  · obtain ⟨u, hu, rfl⟩ := Option.map_eq_some_iff.1 hd
    obtain ⟨-, rfl⟩ := State.reset_buses hu
    exact ⟨rfl, rfl, rfl, rfl, rfl, rfl⟩

end Sys2Proof.Machine
end

section
/-! SUPPORT. The engine registers that a label reads before they are written again, and the noninterference of the others. -/

namespace Sys2Proof.Machine

/-! ## Live and dead registers -/

/-- The labels that read XFER_OK (10_state.md R35). -/
def Phase.readsXferOk : Phase → Bool
  | .wDesel | .rDesel | .sDesel | .wsDesel => true
  | _ => false

/-- The labels of operation `op` from which RX_BYTE is read before it is written again (10_state.md R35). -/
def Phase.readsRxByte (p : Phase) (op : BitVec 3) : Bool :=
  match p with
  | .rDesel | .rDelay => decide (op = opReadByte)
  | .sDesel => true
  | _ => false

/-- The labels at which CHUNK_LEN is the plan of the chunk in progress (10_state.md R34). -/
def Phase.readsPlan (p : Phase) : Bool := p.ofWrite && decide (p ≠ .wPlan)

/-- The state with every engine register blotted out that no label reads from label `p` on before it is written again; the
result record is dead while a request is in progress, since `finish` writes it. -/
def State.blotAt (p : Phase) (s : State) : State :=
  { s.blotWork with
    curAddr := if p.ofWrite then s.curAddr else 0
    curOff := if p.ofWrite then s.curOff else 0
    remLen := if p.ofWrite then s.remLen else 0
    chunkLen := if p.readsPlan then s.chunkLen else 0
    xferOk := if p.readsXferOk then s.xferOk else false
    rxByte := if p.readsRxByte s.reqOp then s.rxByte else 0
    resultStatus := if p = .idle then s.resultStatus else 0
    resultValue := if p = .idle then s.resultValue else 0 }

/-- The state with the registers blotted out that are dead at its own label. -/
def State.blotDead (s : State) : State := s.blotAt s.phase

/-- In IDLE the result record alone is live. -/
theorem State.blotDead_idle {s : State} (h : s.phase = .idle) : s.blotDead = s.blotWork := by
  rw [State.blotDead, h]
  rfl

/-- The states differ in dead registers at most. -/
def State.SameLive (t t' : State) : Prop := t.blotDead = t'.blotDead

theorem State.SameLive.phase {t t' : State} (h : t.SameLive t') : t.phase = t'.phase := by
  show t.blotDead.phase = t'.blotDead.phase
  rw [show t.blotDead = t'.blotDead from h]

/-- The outcomes differ in dead registers of their states at most. -/
def SameLive (o o' : Out) : Prop := mapNext State.blotDead o = mapNext State.blotDead o'

theorem sameLive_next {t t' : State} (h : t.SameLive t') : SameLive (.next t) (.next t') :=
  congrArg Host.Outcome.next h

/-! ## What a blotted state reads as -/

section
variable (s : State) (p : Phase)

theorem State.blotAt_reqOp : (s.blotAt p).reqOp = s.reqOp := rfl
theorem State.blotAt_reqLen : (s.blotAt p).reqLen = s.reqLen := rfl
theorem State.blotAt_nextRx (n : Nat) : (s.blotAt p).nextRx n = s.nextRx n := rfl
theorem State.blotAt_receive (n : Nat) : (s.blotAt p).receive n = (s.receive n).blotAt p := rfl
theorem State.blotAt_deselect : (s.blotAt p).deselect = s.deselect.blotAt p := rfl

/-- RX_BYTE is live where a READ_BYTE posts it, and READ posts none (42_read_engine.md R172, R176). -/
theorem State.blotAt_readValue (hp : p = .rDesel ∨ p = .rDelay) : (s.blotAt p).readValue = s.readValue := by
  unfold State.readValue
  rw [State.blotAt_reqOp]
  split
  · rename_i hop
    rcases hp with rfl | rfl <;> simp [State.blotAt, Phase.readsRxByte, hop]
  · rfl

/-! ## No line reads a dead register -/

/-- Two branches on one condition are related where their arms are. -/
theorem rel_ite_ite {α : Type} {R : α → α → Prop} {c c' : Prop} [Decidable c] [Decidable c'] (h : c' = c) {x y x' y' : α}
    (hx : c → R x' x) (hy : ¬ c → R y' y) : R (if c' then x' else y') (if c then x else y) := by
  subst h
  by_cases hc : c'
  · rw [if_pos hc, if_pos hc]
    exact hx hc
  · rw [if_neg hc, if_neg hc]
    exact hy hc

theorem startOperation_blotAt : (s.blotAt .decode).startOperation.SameLive s.startOperation := by
  refine rel_ite_ite rfl (fun _ => rfl) fun _ => ?_
  refine rel_ite_ite rfl (fun _ => rfl) fun _ => ?_
  exact rel_ite_ite rfl (fun _ => rfl) fun _ => rfl

theorem lineDecode_blotAt : SameLive (lineDecode (s.blotAt .decode)) (lineDecode s) := by
  refine rel_ite_ite rfl (fun _ => sameLive_next rfl) fun _ => ?_
  refine rel_ite_ite rfl (fun _ => sameLive_next rfl) fun _ => ?_
  refine rel_ite_ite rfl (fun _ => sameLive_next rfl) fun _ => ?_
  have hbuffer : (s.blotAt .decode).bufferFault = s.bufferFault := rfl
  rw [hbuffer]
  cases s.bufferFault with
  | none => exact sameLive_next (startOperation_blotAt s)
  | some f => rfl

theorem lineWTx_blotAt : SameLive (lineWTx (s.blotAt .wTx)) (lineWTx s) := by
  have hsrc : (s.blotAt .wTx).src = s.src := rfl
  have hoff : (s.blotAt .wTx).curOff = s.curOff := rfl
  have hlen : (s.blotAt .wTx).chunkLen = s.chunkLen := rfl
  unfold lineWTx
  rw [hsrc, hoff, hlen]
  cases sliceBytes s.src s.curOff.toNat s.chunkLen with
  | none => rfl
  | some data =>
    simp only [State.stageBytes_transmit]
    exact sameLive_next rfl

theorem lineWDesel_blotAt : (lineWDesel (s.blotAt .wDesel)).SameLive (lineWDesel s) :=
  rel_ite_ite rfl (fun _ => rfl) fun _ => rfl

theorem lineWDelay_blotAt : (lineWDelay (s.blotAt .wDelay)).SameLive (lineWDelay s) :=
  rel_ite_ite rfl (fun _ => rfl) fun _ => rfl

/-- A receive exchange of one byte writes XFER_OK and RX_BYTE with values that no dead register decides. -/
theorem receiveByte_blotAt : ∃ ok v, s.receiveByte = ((s.receive 1).setXferOk ok).setRxByte v ∧
    (s.blotAt p).receiveByte = (((s.receive 1).blotAt p).setXferOk ok).setRxByte v :=
  ⟨_, _, rfl, rfl⟩

theorem lineRDataByte_blotAt : (lineRDataByte (s.blotAt .rData)).SameLive (lineRDataByte s) := by
  obtain ⟨ok, v, h, h'⟩ := receiveByte_blotAt s .rData
  rw [lineRDataByte, lineRDataByte, h, h']
  rfl

theorem lineRDataRun_blotAt (hop : s.reqOp ≠ opReadByte) : SameLive (lineRDataRun (s.blotAt .rData)) (lineRDataRun s) := by
  cases hdst : storeBytes s.dst s.runBytes with
  | none =>
    rw [lineRDataRun_overrun hdst, lineRDataRun_overrun (s := s.blotAt .rData) hdst]
    rfl
  | some dst =>
    rw [lineRDataRun_stored hdst, lineRDataRun_stored (s := s.blotAt .rData) hdst, State.blotAt_receive, State.blotAt_nextRx,
      State.blotAt_reqLen]
    apply sameLive_next
    simp [State.SameLive, State.blotDead, State.blotAt, State.blotWork, Phase.readsRxByte, Phase.readsXferOk, Phase.readsPlan,
      Phase.ofWrite, hop]

theorem lineRDesel_blotAt : (lineRDesel (s.blotAt .rDesel)).SameLive (lineRDesel s) := by
  refine rel_ite_ite rfl (fun _ => rfl) fun _ => rel_ite_ite rfl (fun _ => ?_) fun _ => ?_
  · rw [State.blotAt_deselect]
    by_cases hop : s.reqOp = opReadByte <;>
      simp [State.SameLive, State.blotDead, State.blotAt, State.blotWork, Phase.readsRxByte, Phase.readsXferOk,
        Phase.readsPlan, Phase.ofWrite, hop]
  · rw [State.blotAt_readValue s _ (.inl rfl)]
    rfl

theorem lineRDelay_blotAt : (lineRDelay (s.blotAt .rDelay)).SameLive (lineRDelay s) := by
  unfold lineRDelay
  rw [State.blotAt_readValue s _ (.inr rfl)]
  rfl

theorem lineSData_blotAt : (lineSData (s.blotAt .sData)).SameLive (lineSData s) := by
  obtain ⟨ok, v, h, h'⟩ := receiveByte_blotAt s .sData
  rw [lineSData, lineSData, h, h']
  rfl

theorem lineSDesel_blotAt : (lineSDesel (s.blotAt .sDesel)).SameLive (lineSDesel s) :=
  rel_ite_ite rfl (fun _ => rfl) fun _ => rfl

theorem lineWsDesel_blotAt : (lineWsDesel (s.blotAt .wsDesel)).SameLive (lineWsDesel s) :=
  rel_ite_ite rfl (fun _ => rfl) fun _ => rfl

/-- A line of a request in progress comes out the same, but for dead registers, from the state without its dead registers. -/
theorem line_blotDead (hp : s.phase ≠ .idle) : SameLive (line s.blotDead) (line s) := by
  have hphase : s.blotDead.phase = s.phase := rfl
  unfold line
  rw [hphase]
  unfold State.blotDead
  cases hlabel : s.phase <;> simp only
  case idle => exact absurd hlabel hp
  case decode => exact lineDecode_blotAt s
  case wTx => exact lineWTx_blotAt s
  case wDesel => exact sameLive_next (lineWDesel_blotAt s)
  case wDelay => exact sameLive_next (lineWDelay_blotAt s)
  case rData =>
    exact rel_ite_ite rfl (fun _ => sameLive_next (lineRDataByte_blotAt s)) fun hop => lineRDataRun_blotAt s hop
  case rDesel => exact sameLive_next (lineRDesel_blotAt s)
  case rDelay => exact sameLive_next (lineRDelay_blotAt s)
  case sData => exact sameLive_next (lineSData_blotAt s)
  case sDesel => exact sameLive_next (lineSDesel_blotAt s)
  case wsDesel => exact sameLive_next (lineWsDesel_blotAt s)
  case wEnTx | rCmd | sCmd | wsEnTx | wsTx =>
    simp only [lineWEnTx, lineRCmd, lineSCmd, lineWsEnTx, lineWsTx, State.stageBytes_transmit]
    exact sameLive_next rfl
  all_goals exact sameLive_next rfl

theorem tick_blotDead (hp : s.phase ≠ .idle) : SameLive (tick s.blotDead) (tick s) := by
  have hreset : s.blotDead.resetIn = s.resetIn := rfl
  unfold tick
  rw [hreset]
  cases s.resetIn with
  | none => exact line_blotDead s hp
  | some k =>
    cases k with
    | zero => exact sameLive_next rfl
    | succ k => exact line_blotDead { s with resetIn := some k } hp

end

/-! ## Runs of lines, and whole requests -/

theorem tick_sameLive {s s' : State} (h : s.SameLive s') (hp : s.phase ≠ .idle) : SameLive (tick s) (tick s') := by
  have h1 := tick_blotDead s hp
  have h2 := tick_blotDead s' (h.phase ▸ hp)
  rw [← show s.blotDead = s'.blotDead from h] at h2
  exact h1.symm.trans h2

/-- A run of lines carries the agreement of the live registers. -/
theorem runLines_sameLive : ∀ (n : Nat) (s s' : State), s.SameLive s' → SameLive (runLines n s) (runLines n s') := by
  intro n
  induction n with
  | zero => exact fun s s' h => sameLive_next h
  | succ n ih =>
    intro s s' h
    by_cases hp : s.phase = .idle
    · rw [runLines_idle hp, runLines_idle (h.phase ▸ hp)]
      exact sameLive_next h
    · have hp' : s'.phase ≠ .idle := h.phase ▸ hp
      have ht := tick_sameLive h hp
      simp only [runLines, if_neg hp, if_neg hp']
      cases hu : tick s <;> cases hu' : tick s' <;> rw [hu, hu'] at ht
      case next.next u u' => exact ih u u' (Host.Outcome.next.inj ht)
      case fault.fault => exact ht
      case refused.refused => exact ht
      all_goals cases ht

/-- Acceptance writes every register that DECODE reads (60_exceptions.md R243). -/
theorem runRequest_sameLive (d : Descriptor) (s : State) : SameLive (runRequest d s) (runRequest d s.blotEngine) :=
  runLines_sameLive _ _ _ rfl

/-! ## A request into which no reset falls ends in IDLE -/

section
variable {s t : State}

/-- A request that DECODE does not let pass ends there (60_exceptions.md R236). -/
theorem runRequest_idle_or_checked {d : Descriptor} (hr : s.resetIn = none) (h : runRequest d s = .next t) :
    t.phase = .idle ∨ (s.accept d).Checked := by
  obtain ⟨k, hk⟩ := (s.accept d).lineBudget_eq
  rw [runRequest, hk] at h
  obtain ⟨u, hu, hrun⟩ := runLines_succ_next (s := s.accept d) (by simp) h
  rw [tick_of_noReset (by exact hr), line_decode rfl] at hu
  have hends : ∀ st, u = (s.accept d).raise st → t.phase = .idle := by
    rintro st rfl
    rw [runLines_idle rfl] at hrun
    exact Host.Outcome.next.inj hrun ▸ rfl
  unfold lineDecode at hu
  split at hu
  · exact .inl (hends _ (Host.Outcome.next.inj hu).symm)
  split at hu
  · exact .inl (hends _ (Host.Outcome.next.inj hu).symm)
  split at hu
  · exact .inl (hends _ (Host.Outcome.next.inj hu).symm)
  split at hu
  · cases hu
  · rename_i h1 h2 h3 _ h4
    exact .inr ⟨by simpa using h1, by simpa using h2, by simpa using h3, h4⟩

theorem readEnd_phase (u : State) : (readEnd u).phase = .idle := by
  unfold readEnd
  split
  · rfl
  · rename_i hend
    unfold lineRDesel
    split
    · rfl
    split
    · rename_i h1 h2
      exact absurd ⟨by simpa using h1, h2⟩ hend
    · rfl

theorem lineSDesel_phase (u : State) : (lineSDesel u).phase = .idle := by
  unfold lineSDesel
  split <;> rfl

/-- DECODE's checks, as a range that the array takes (60_exceptions.md R232, R233). -/
theorem State.Checked.accepts {op : BitVec 3} {bus : BitVec 8} {addr len : BitVec 16} {value : BitVec 8}
    (h : (s.accept (requestFields op bus addr len value)).Checked) (hop : op = opWrite ∨ op = opRead) :
    s.Accepts bus addr.toNat len.toNat := by
  obtain ⟨-, hbus, hbounds, -⟩ := h
  rw [State.boundsOk, if_pos (by exact hop)] at hbounds
  exact ⟨of_decide_eq_true hbus, of_decide_eq_true hbounds⟩

theorem execWrite_phase {bus : BitVec 8} {addr len : BitVec 16} {value : BitVec 8} (hr : s.resetIn = none)
    (hc : (s.accept (requestFields opWrite bus addr len value)).Checked) (h : execWrite bus addr len value s = .next t) :
    t.phase = .idle := by
  have haccepts := hc.accepts (.inl rfl)
  obtain ⟨-, -, -, hbuffer⟩ := hc
  have hsrc : len.toNat ≤ s.src.length := by
    simpa [State.bufferFault, requestFields, opWrite, opRead] using hbuffer
  obtain ⟨u, hu, hidle⟩ := execWrite_loop (P := fun _ => True) (Q := fun u => u.phase = .idle) value hr haccepts hsrc
    (fun _ _ _ _ => rfl) (fun _ _ _ _ _ => rfl) (fun _ _ _ _ _ => trivial) trivial
  exact Host.Outcome.next.inj (hu.symm.trans h) ▸ hidle

theorem execRead_phase {bus : BitVec 8} {addr len : BitVec 16} {value : BitVec 8} (hr : s.resetIn = none)
    (hc : (s.accept (requestFields opRead bus addr len value)).Checked) (h : execRead bus addr len value s = .next t) :
    t.phase = .idle := by
  have haccepts := hc.accepts (.inr rfl)
  obtain ⟨-, -, -, hbuffer⟩ := hc
  have hdst : len.toNat ≤ s.dst.length := by
    simpa [State.bufferFault, requestFields, opWrite, opRead] using hbuffer
  obtain ⟨_, -, -, hu⟩ := lineRDataRun_eq (s := lineRCmd (lineRSel (s.started opRead .rSel bus addr len value))) hdst
  have e := execRead_eq value hr haccepts hdst hu
  exact Host.Outcome.next.inj (e.symm.trans h) ▸ readEnd_phase _

theorem execReadByte_phase {bus : BitVec 8} {addr len : BitVec 16} {value : BitVec 8} (hr : s.resetIn = none)
    (hc : (s.accept (requestFields opReadByte bus addr len value)).Checked)
    (h : execReadByte bus addr len value s = .next t) : t.phase = .idle := by
  obtain ⟨-, hbus, hbounds, -⟩ := hc
  have e := execReadByte_eq len value hr (of_decide_eq_true hbus) (of_decide_eq_true hbounds)
  exact Host.Outcome.next.inj (e.symm.trans h) ▸ readEnd_phase _

theorem execReadStatus_phase {bus : BitVec 8} {addr len : BitVec 16} {value : BitVec 8} (hr : s.resetIn = none)
    (hc : (s.accept (requestFields opReadStatus bus addr len value)).Checked)
    (h : execReadStatus bus addr len value s = .next t) : t.phase = .idle := by
  obtain ⟨-, hbus, -, -⟩ := hc
  have e := execReadStatus_eq addr len value hr (of_decide_eq_true hbus)
  exact Host.Outcome.next.inj (e.symm.trans h) ▸ lineSDesel_phase _

theorem execWriteStatus_phase {bus : BitVec 8} {addr len : BitVec 16} {value : BitVec 8} (hr : s.resetIn = none)
    (hc : (s.accept (requestFields opWriteStatus bus addr len value)).Checked)
    (h : execWriteStatus bus addr len value s = .next t) : t.phase = .idle := by
  obtain ⟨-, hbus, -, -⟩ := hc
  have e := execWriteStatus_eq addr len value hr (of_decide_eq_true hbus) rfl
  rw [Host.Outcome.next.inj (h.symm.trans e)]
  split
  · rfl
  · rename_i hx
    rw [lineWsDesel, if_neg hx]
    rfl

theorem exec_request_phase {i : Instr} (hi : isRequest i = true) (hr : s.resetIn = none) (h : exec i s = .next t) :
    t.phase = .idle := by
  cases i with
  | write bus addr len value => exact (runRequest_idle_or_checked hr h).elim id fun hc => execWrite_phase hr hc h
  | read bus addr len value => exact (runRequest_idle_or_checked hr h).elim id fun hc => execRead_phase hr hc h
  | readByte bus addr len value => exact (runRequest_idle_or_checked hr h).elim id fun hc => execReadByte_phase hr hc h
  | readStatus bus addr len value => exact (runRequest_idle_or_checked hr h).elim id fun hc => execReadStatus_phase hr hc h
  | writeStatus bus addr len value => exact (runRequest_idle_or_checked hr h).elim id fun hc => execWriteStatus_phase hr hc h
  | _ => cases hi

theorem exec_request_sameLive {i : Instr} (hi : isRequest i = true) (s : State) :
    SameLive (exec i s) (exec i s.blotEngine) := by
  cases i with
  | write bus addr len value => exact runRequest_sameLive _ s
  | read bus addr len value => exact runRequest_sameLive _ s
  | readByte bus addr len value => exact runRequest_sameLive _ s
  | readStatus bus addr len value => exact runRequest_sameLive _ s
  | writeStatus bus addr len value => exact runRequest_sameLive _ s
  | _ => cases hi

end

/-- Settles O18: no line reads a register that is dead at its label, acceptance leaves every old value dead, and in IDLE, where
the request ends, only working registers are dead. -/
theorem oldEngineRegistersNeverShow : Obligations.OldEngineRegistersNeverShow := by
  unfold Obligations.OldEngineRegistersNeverShow
  intro i s hi hr
  have hsame := exec_request_sameLive hi s
  cases hu : exec i s <;> cases hu' : exec i s.blotEngine <;> rw [hu, hu'] at hsame
  case next.next u u' =>
    have hlive : u.blotDead = u'.blotDead := Host.Outcome.next.inj hsame
    rw [State.blotDead_idle (exec_request_phase hi hr hu),
      State.blotDead_idle (exec_request_phase (s := s.blotEngine) hi hr hu')] at hlive
    exact congrArg Host.Outcome.next hlive
  case fault.fault => exact hsame
  case refused.refused => exact hsame
  all_goals cases hsame

end Sys2Proof.Machine
end

section
/-! SUPPORT. What a request that only reads leaves unchanged: its one transaction, from Select to Deselect, and the settle
delay. -/

namespace Sys2Proof.Machine

/-- A frame at whose Deselect the device keeps its data, whether its exchange failed or not. -/
def HarmlessFrame (xs : List (BitVec 8)) : Prop :=
  ∀ (par : Config.Params) (k c : Nat) (ok : Bool) (d : Device), d.transaction par k xs ok c = d.closed (!ok)

theorem harmlessFrame_rdsr : HarmlessFrame rdsrBytes := fun par k c ok d => d.transaction_rdsr par k c ok
theorem harmlessFrame_read (a : BitVec 16) : HarmlessFrame (readBytes a) := fun par k c ok d => d.transaction_read par k c ok a

/-- The registers and inputs that no line of a read writes: the latched request, the splitter and the surroundings. -/
def State.InputsKept (s t : State) : Prop := s.SurroundingsKept t ∧ s.SplitterKept t ∧ t.latched = s.latched

/-- The claims' `Latched` as an equation of descriptors. -/
theorem State.latched_iff {t : State} {d : Descriptor} : State.Latched d t ↔ t.latched = d := by
  cases d
  simp only [State.Latched, State.latched, Descriptor.mk.injEq]
  tauto

/-- `u` is `s` inside a transaction on the request's bus: the frame `xs` is sent, and bytes may have been received. -/
structure State.InTransaction (xs : List (BitVec 8)) (s u : State) : Prop where
  device  : ∃ ok c, u.device s.reqBus = (s.device s.reqBus).map fun d => { Device.onTx xs ok d.onSelect with readCount := c }
  others  : ∀ b, b ≠ s.reqBus → u.device b = s.device b
  present : s.reqBus.toNat < s.numBuses → u.chipSelect s.reqBus = some true
  lines   : ∀ b, b ≠ s.reqBus → u.chipSelect b = s.chipSelect b
  inputs  : s.InputsKept u

/-- `t` is `s` after a request that only reads, in the course of which `ms` milliseconds passed. -/
structure State.AfterRead (ms : Nat) (s t : State) : Prop where
  devices  : s.DevicesKeptFor ms t
  others   : ∀ b, b ≠ s.reqBus → t.device b = (s.device b).map (Device.passTime ms)
  released : s.ChipSelectReleased s.reqBus t
  inputs   : s.InputsKept t

section
variable {s u t : State} {xs : List (BitVec 8)}

theorem State.chipSelect_isSome {b : BitVec 8} (h : b.toNat < s.numBuses) : ∃ v, s.chipSelect b = some v :=
  ⟨_, by rw [State.chipSelect, List.getElem?_eq_getElem h]; rfl⟩

/-- Select, Tx of a staged frame and one receive exchange, whatever the transport answers. -/
theorem State.inTransaction_receive (n : Nat) (s : State) (xs : List (BitVec 8)) :
    s.InTransaction xs ((s.select.stageBytes xs).transmit.receive n) where
  device := by
    have hrx := (s.select.stageBytes xs).transmit.receive_device n
    have htx := (s.select.stageBytes xs).transmit_device
    rw [show (s.select.stageBytes xs).transmit.reqBus = s.reqBus from rfl] at hrx
    rw [show (s.select.stageBytes xs).reqBus = s.reqBus from rfl, State.stageBytes_device, State.select_device,
      State.stageBytes_staged] at htx
    refine ⟨s.nextTx, if (s.select.stageBytes xs).transmit.nextRx n = n then n else 0, ?_⟩
    rw [hrx, htx, Option.map_map, Option.map_map]
    refine congrArg (Option.map · _) (funext fun d => ?_)
    by_cases h : (s.select.stageBytes xs).transmit.nextRx n = n <;> simp [h, Device.onRx, Device.onTx, Device.onSelect]
  others b hb := by
    rw [(s.select.stageBytes xs).transmit.receive_device_ne hb, (s.select.stageBytes xs).transmit_device_ne hb,
      State.stageBytes_device, s.select_device_ne hb]
  present hb := by
    obtain ⟨v, hv⟩ := s.chipSelect_isSome hb
    simp [hv]
  lines b hb := by
    rw [State.receive_chipSelect, State.transmit_chipSelect, State.stageBytes_chipSelect, s.select_chipSelect_ne hb]
  inputs := ⟨⟨rfl, rfl, rfl, rfl, rfl, rfl, rfl⟩, ⟨rfl, rfl, rfl, rfl, rfl⟩, rfl⟩

/-- A state that agrees with one inside a transaction on the buses and the inputs is inside it too. -/
theorem State.InTransaction.of_buses_eq (h : s.InTransaction xs u) (hb : t.buses = u.buses)
    (hi : s.InputsKept t := by exact ⟨⟨rfl, rfl, rfl, rfl, rfl, rfl, rfl⟩, ⟨rfl, rfl, rfl, rfl, rfl⟩, rfl⟩) : s.InTransaction xs t := by
  have hdevice : ∀ b, t.device b = u.device b := fun b => by rw [State.device, hb]; rfl
  have hline : ∀ b, t.chipSelect b = u.chipSelect b := fun b => by rw [State.chipSelect, hb]; rfl
  obtain ⟨h1, h2, h3, h4, -⟩ := h
  exact ⟨by simpa only [hdevice] using h1, by simpa only [hdevice] using h2, by simpa only [hline] using h3,
    by simpa only [hline] using h4, hi⟩

/-- The Deselect that ends a harmless frame leaves every device its data. -/
theorem State.InTransaction.deselect (h : s.InTransaction xs u) (hx : HarmlessFrame xs) (hb : s.reqBus.toNat < s.numBuses) :
    s.AfterRead 0 u.deselect := by
  obtain ⟨⟨ok, c, hdevice⟩, hothers, hpresent, hlines, hinputs⟩ := h
  have hbus : u.reqBus = s.reqBus := congrArg Descriptor.bus hinputs.2.2
  have hother : ∀ b, b ≠ s.reqBus → u.deselect.device b = (s.device b).map (Device.passTime 0) := fun b hne => by
    rw [State.deselect_device_ne _ (hbus ▸ hne), hothers b hne]
    exact (congrFun Option.map_id _).symm
  have hown : u.deselect.device s.reqBus = (s.device s.reqBus).map (Device.closed (!ok)) := by
    have := u.deselect_device
    rw [hbus, hdevice, Option.map_map] at this
    rw [this]
    exact congrArg (Option.map · _) (funext fun d => hx u.par u.draws c ok d)
  refine ⟨fun b d hd => ?_, hother, ⟨?_, fun b hne => ?_⟩, hinputs⟩
  · by_cases he : b = s.reqBus
    · subst he
      exact ⟨d.closed (!ok), by rw [hown, hd]; rfl, rfl, rfl, rfl, rfl, rfl, rfl⟩
    · exact ⟨d, by rw [hother b he, hd]; rfl, rfl, rfl, rfl, rfl, rfl, rfl⟩
  · have := u.deselect_chipSelect
    rw [hbus, hpresent hb] at this
    exact this
  · rw [State.deselect_chipSelect_ne _ (hbus ▸ hne), hlines b hne]

/-- Time passes at every device (43_device_commands.md R205; log entry 15). -/
theorem State.AfterRead.delay (h : s.AfterRead 0 t) (ms : Nat) : s.AfterRead ms (t.delay ms) := by
  obtain ⟨hdevices, hothers, ⟨hown, hlines⟩, hinputs⟩ := h
  refine ⟨fun b d hd => ?_, fun b hne => ?_, ⟨?_, fun b hne => ?_⟩, hinputs⟩
  · obtain ⟨e, he, hmem, hwpen, hbp1, hbp0, hwel, hwip⟩ := hdevices b d hd
    exact ⟨e.passTime ms, by rw [State.delay_device, he]; rfl, hmem, hwpen, hbp1, hbp0, hwel, congrArg (· - ms) hwip⟩
  · rw [State.delay_device, hothers b hne, Option.map_map]
    rfl
  · rw [State.delay_chipSelect, hown]
  · rw [State.delay_chipSelect, hlines b hne]

/-- Posting the result touches no device and no input. -/
theorem State.AfterRead.finish {ms : Nat} (h : s.AfterRead ms t) (st : Status) (v : BitVec 8) :
    s.AfterRead ms (t.finish st v) := ⟨h.devices, h.others, h.released, h.inputs⟩

theorem State.AfterRead.goto {ms : Nat} (h : s.AfterRead ms t) (p : Phase) : s.AfterRead ms (t.goto p) :=
  ⟨h.devices, h.others, h.released, h.inputs⟩

/-! ## READ_STATUS (40_status_accessor.md R121) -/

theorem lineSDesel_afterRead (h : s.InTransaction xs u) (hx : HarmlessFrame xs) (hb : s.reqBus.toNat < s.numBuses) :
    s.AfterRead 0 (lineSDesel u) := by
  unfold lineSDesel
  split
  · exact (h.deselect hx hb).finish _ _
  · exact (h.deselect hx hb).finish _ _

theorem lineSDesel_dst (u : State) : (lineSDesel u).dst = u.dst := by
  unfold lineSDesel
  split <;> rfl

theorem lineSData_inTransaction (s : State) : s.InTransaction rdsrBytes (lineSData (lineSCmd (lineSSel s))) :=
  (s.inTransaction_receive 1 rdsrBytes).of_buses_eq rfl

/-! ## READ and READ_BYTE (42_read_engine.md R172, R176, R178) -/

theorem lineRDataByte_inTransaction (s : State) :
    s.InTransaction (readBytes s.reqAddr) (lineRDataByte (lineRCmd (lineRSel s))) :=
  (s.inTransaction_receive 1 (readBytes s.reqAddr)).of_buses_eq rfl

/-- The receive line of READ stores in DST and leaves RX_BYTE alone. -/
theorem lineRDataRun_inTransaction (hu : lineRDataRun (lineRCmd (lineRSel s)) = .next u) :
    s.InTransaction (readBytes s.reqAddr) u ∧ u.rxByte = s.rxByte := by
  obtain ⟨k, dst, -, rfl⟩ := lineRDataRun_next hu
  exact ⟨(s.inTransaction_receive s.reqLen.toNat (readBytes s.reqAddr)).of_buses_eq rfl, rfl⟩

/-- A read ends at its Deselect, or after the settle delay that follows it (42_read_engine.md R178). -/
theorem readEnd_cases (u : State) : (∃ st v, readEnd u = u.deselect.finish st v) ∨
    ∃ v, readEnd u = ((u.deselect.goto .rDelay).delay 4).finish .ok v := by
  unfold readEnd lineRDelay lineRDesel
  by_cases hok : u.xferOk = true
  · by_cases hsettle : u.par.readSettle = true
    · exact .inr ⟨(u.deselect.goto .rDelay).readValue, by simp [hok, hsettle]⟩
    · exact .inl ⟨.ok, u.readValue, by simp [hok, hsettle]⟩
  · exact .inl ⟨u.readFailure, 0, by simp [hok, State.raise]⟩

theorem readEnd_afterRead (h : s.InTransaction xs u) (hx : HarmlessFrame xs) (hb : s.reqBus.toNat < s.numBuses) :
    ∃ ms, (ms = 0 ∨ ms = 4) ∧ s.AfterRead ms (readEnd u) := by
  have hend := h.deselect hx hb
  obtain ⟨st, v, e⟩ | ⟨v, e⟩ := readEnd_cases u
  · exact ⟨0, .inl rfl, e ▸ hend.finish st v⟩
  · exact ⟨4, .inr rfl, e ▸ ((hend.goto .rDelay).delay 4).finish .ok v⟩

theorem readEnd_buffers (u : State) : (readEnd u).dst = u.dst ∧ (readEnd u).rxByte = u.rxByte := by
  obtain ⟨st, v, e⟩ | ⟨v, e⟩ := readEnd_cases u <;> rw [e] <;> exact ⟨rfl, rfl⟩

/-- DECODE of a request that passes every check but the caller's buffer (60_exceptions.md R235, R236). -/
theorem lineDecode_fault {f : Fault} (hdesc : s.descriptorOk = true) (hbus : s.busOk = true) (hbounds : s.boundsOk = true)
    (hf : s.bufferFault = some f) : lineDecode s = .fault f := by
  simp [lineDecode, hdesc, hbus, hbounds, hf]

/-- A READ that ends without a fault had a buffer with the room (60_exceptions.md R235). -/
theorem execRead_dst_fits {bus : BitVec 8} {addr len : BitVec 16} {value : BitVec 8} (hr : s.resetIn = none)
    (ha : s.Accepts bus addr.toNat len.toNat) (h : execRead bus addr len value s = .next t) : len.toNat ≤ s.dst.length := by
  by_contra hlt
  have hshort : (s.accept (requestFields opRead bus addr len value)).bufferFault = some .destOverrun := by
    simpa [State.bufferFault, requestFields, opRead, opWrite] using hlt
  have hfault := lineDecode_fault (s := s.accept (requestFields opRead bus addr len value))
    (s.accept_descriptorOk bus addr len value (by decide)) (decide_eq_true ha.1) (decide_eq_true ha.2) hshort
  obtain ⟨k, hk⟩ := (s.accept (requestFields opRead bus addr len value)).lineBudget_eq
  rw [execRead, runRequest, hk] at h
  obtain ⟨u, hu, -⟩ := runLines_succ_next (s := s.accept (requestFields opRead bus addr len value)) (by simp) h
  rw [tick_of_noReset (by exact hr), line_decode rfl, hfault] at hu
  cases hu

/-- READ_BYTE's state when its result is posted. -/
theorem execReadByte_afterRead {bus : BitVec 8} {addr len : BitVec 16} {value : BitVec 8} (hr : s.resetIn = none)
    (hb : bus.toNat < s.numBuses) (ha : addr.toNat < s.par.deviceSize) (h : execReadByte bus addr len value s = .next t) :
    (∃ ms, (ms = 0 ∨ ms = 4) ∧ (s.started opReadByte .rSel bus addr len value).AfterRead ms t) ∧ t.dst = s.dst := by
  obtain rfl := Host.Outcome.next.inj ((execReadByte_eq len value hr hb ha).symm.trans h)
  exact ⟨readEnd_afterRead (lineRDataByte_inTransaction (s.started opReadByte .rSel bus addr len value))
    (harmlessFrame_read addr) hb, (readEnd_buffers _).1⟩

/-- READ's state when its result is posted. -/
theorem execRead_afterRead {bus : BitVec 8} {addr len : BitVec 16} {value : BitVec 8} (hr : s.resetIn = none)
    (ha : s.Accepts bus addr.toNat len.toNat) (h : execRead bus addr len value s = .next t) :
    (∃ ms, (ms = 0 ∨ ms = 4) ∧ (s.started opRead .rSel bus addr len value).AfterRead ms t) ∧ t.rxByte = s.rxByte := by
  have hfits := execRead_dst_fits hr ha h
  obtain ⟨_, -, -, hu⟩ := lineRDataRun_eq (s := lineRCmd (lineRSel (s.started opRead .rSel bus addr len value))) hfits
  obtain ⟨hopen, hrx⟩ := lineRDataRun_inTransaction hu
  obtain rfl := Host.Outcome.next.inj ((execRead_eq value hr ha hfits hu).symm.trans h)
  exact ⟨readEnd_afterRead hopen (harmlessFrame_read addr) ha.1, (readEnd_buffers _).2.trans hrx⟩

/-- The frame of a read in the terms of the claims, seen from the state in which the request was issued. -/
theorem State.AfterRead.readsFrame {ms : Nat} {op : BitVec 3} {p : Phase} {bus : BitVec 8} {addr len : BitVec 16}
    {value : BitVec 8} (hms : ms = 0 ∨ ms = 4) (h : (s.started op p bus addr len value).AfterRead ms t) :
    (∃ ms, (ms = 0 ∨ ms = 4) ∧ s.DevicesKeptFor ms t ∧
      ∀ b d, b ≠ bus → s.device b = some d → t.device b = some { d with wipMs := d.wipMs - ms }) ∧
    s.ChipSelectReleased bus t ∧ s.SurroundingsKept t ∧ s.SplitterKept t ∧
    State.Latched (requestFields op bus addr len value) t := by
  obtain ⟨hdevices, hothers, hreleased, hsurroundings, hsplitter, hlatched⟩ := h
  exact ⟨⟨ms, hms, hdevices, fun b d hne hd => (hothers b hne).trans (congrArg (Option.map (Device.passTime ms)) hd)⟩,
    hreleased, hsurroundings, hsplitter, State.latched_iff.2 hlatched⟩

end

/-- Settles O21: READ_STATUS is one transaction of RDSR, at whose Deselect the device keeps its data. -/
theorem readStatusFrame : Obligations.ReadStatusFrame := by
  unfold Obligations.ReadStatusFrame
  intro s t bus addr len value hr hb h
  obtain rfl := Host.Outcome.next.inj ((execReadStatus_eq addr len value hr hb).symm.trans h)
  obtain ⟨hdevices, hothers, hreleased, hsurroundings, hsplitter, hlatched⟩ :=
    lineSDesel_afterRead (lineSData_inTransaction (s.started opReadStatus .sSel bus addr len value)) harmlessFrame_rdsr hb
  exact ⟨hdevices, fun b hne => (hothers b hne).trans (congrFun Option.map_id _), hreleased, hsurroundings, hsplitter,
    lineSDesel_dst _, State.latched_iff.2 hlatched⟩

/-- Settles O31: a read is one transaction of a READ frame, at whose Deselect the device keeps its data, and at most the settle
delay after it. -/
theorem readsFrame : Obligations.ReadsFrame := by
  unfold Obligations.ReadsFrame
  rintro s t bus addr len value i hr hb h (⟨rfl, ha⟩ | ⟨rfl, ha⟩)
  · obtain ⟨⟨ms, hms, hafter⟩, hrx⟩ := execRead_afterRead hr ha h
    obtain ⟨hdevices, hreleased, hsurroundings, hsplitter, hlatched⟩ := hafter.readsFrame hms
    exact ⟨hdevices, hreleased, hsurroundings, hsplitter, by simp, fun _ => ⟨hrx, hlatched⟩⟩
  · obtain ⟨⟨ms, hms, hafter⟩, hdst⟩ := execReadByte_afterRead hr hb ha h
    obtain ⟨hdevices, hreleased, hsurroundings, hsplitter, hlatched⟩ := hafter.readsFrame hms
    exact ⟨hdevices, hreleased, hsurroundings, hsplitter, fun _ => ⟨hdst, hlatched⟩, by simp⟩

end Sys2Proof.Machine
end

section
/-! SUPPORT. A WRITE whose pages the device protects (43_device_commands.md R200): no chunk of it stores a byte. -/

namespace Sys2Proof.Machine

/-- From `d` to `e` the array and the block-protection bits are as they were. -/
def Device.BytesKept (d e : Device) : Prop := e.mem = d.mem ∧ e.bp1 = d.bp1 ∧ e.bp0 = d.bp0

/-! ## A chunk at the device -/

section
variable {par : Config.Params} {d e f : Device}

theorem Device.BytesKept.trans (h : d.BytesKept e) (h' : e.BytesKept f) : d.BytesKept f := by
  obtain ⟨hmem, hbp1, hbp0⟩ := h
  obtain ⟨hmem', hbp1', hbp0'⟩ := h'
  exact ⟨hmem'.trans hmem, hbp1'.trans hbp1, hbp0'.trans hbp0⟩

/-- Protection is in the block-protection bits alone. -/
theorem Device.BytesKept.protects (h : d.BytesKept e) (a : Nat) : e.protects par a = d.protects par a := by
  obtain ⟨-, hbp1, hbp0⟩ := h
  rw [Device.protects, Device.protects, hbp1, hbp0]

theorem Device.BytesKept.passTime (h : d.BytesKept e) (ms : Nat) : d.BytesKept (e.passTime ms) := h

theorem Device.transaction_wren_bytesKept (k c : Nat) : d.BytesKept (d.transaction par k wrenBytes true c) := by
  rw [wrenBytes, Device.transaction_wren]
  exact ⟨rfl, rfl, rfl⟩

/-- A WRITE frame to a protected page stores nothing, at a busy device too (43_device_commands.md R199 to R201). -/
theorem Device.transaction_write_bytesKept {a : BitVec 16} (k c : Nat) (data : List (BitVec 8))
    (h : d.protects par (devicePageBase par a) = true) : d.BytesKept (d.transaction par k (writeBytes a data) true c) := by
  rw [writeBytes, Device.transaction_write, Device.doWrite, if_pos h]
  repeat' split
  all_goals exact ⟨rfl, rfl, rfl⟩

end

/-! ## The answers of a WRITE none of whose exchanges fails -/

/-- The number of chunks still to be sent falls by one at each advance (41_page_write.md R144). -/
theorem State.AtPlan.chunkCount_nextPlan {u : State} (h : u.AtPlan) (hn : u.nextLen ≠ u.remLen.toNat) :
    chunkCount u.curAddr.toNat u.remLen.toNat = chunkCount u.nextPlan.curAddr.toNat u.nextPlan.remLen.toNat + 1 := by
  obtain ⟨hpage, hlt⟩ := State.nextLen_lt hn
  obtain ⟨-, hrem, haligned, -⟩ := State.nextPlan_sums h hn
  rw [chunkCount_mod u.nextPlan.curAddr.toNat, haligned, chunkCount_next (hpage ▸ hlt), ← hpage, ← hrem, Nat.add_sub_cancel]

/-- The two answers a chunk takes (41_page_write.md R147). -/
theorem State.nextSent_cons {u : State} {w f : Bool} {rest : List Bool} (h : u.txAnswers = w :: f :: rest) : u.nextSent = f :=
  State.nextTx_cons (rest := rest) (by simp [h])

/-- Every exchange of the WRITE in progress at `u` succeeds. -/
def State.AllSucceed (rest : List Bool) (u : State) : Prop :=
  u.txAnswers = List.replicate (2 * chunkCount u.curAddr.toNat u.remLen.toNat) true ++ rest

theorem State.AllSucceed.split {u : State} {rest : List Bool} (h : u.AllSucceed rest) : ∃ n,
    chunkCount u.curAddr.toNat u.remLen.toNat = n + 1 ∧ u.txAnswers = true :: true :: (List.replicate (2 * n) true ++ rest) := by
  obtain ⟨n, hn⟩ := Nat.exists_eq_add_of_le' (chunkCount_pos u.curAddr.toNat u.remLen.toNat)
  refine ⟨n, hn, ?_⟩
  rw [h, hn]
  rfl

theorem State.AllSucceed.nextTx {u : State} {rest : List Bool} (h : u.AllSucceed rest) : u.nextTx = true := by
  obtain ⟨n, -, htx⟩ := h.split
  exact State.nextTx_cons htx

theorem State.AllSucceed.nextSent {u : State} {rest : List Bool} (h : u.AllSucceed rest) : u.nextSent = true := by
  obtain ⟨n, -, htx⟩ := h.split
  exact State.nextSent_cons htx

theorem State.AllSucceed.nextPlan {u : State} {rest : List Bool} (h : u.AllSucceed rest) (hu : u.AtPlan)
    (hn : u.nextLen ≠ u.remLen.toNat) : u.nextPlan.AllSucceed rest := by
  obtain ⟨n, hcount, htx⟩ := h.split
  have hnext := hu.chunkCount_nextPlan hn
  rw [State.AllSucceed, State.nextPlan_txAnswers, htx, show chunkCount _ _ = n by omega]
  rfl

/-! ## The loop -/

/-- The WRITE begun at `s` on a bus with device `d` plans a chunk in the array and in a protected page; so far it stored nothing. -/
structure State.PlansProtected (d : Device) (s u : State) : Prop where
  par     : u.par = s.par
  posted  : u.posted = s.posted
  device  : ∃ e, u.device u.reqBus = some e ∧ d.BytesKept e
  start   : u.curAddr.toNat < s.par.deviceSize
  fits    : u.curAddr.toNat + u.remLen.toNat ≤ s.par.deviceSize
  guarded : d.protects s.par (u.curAddr.toNat - u.curAddr.toNat % 16) = true

section
variable {d : Device} {s u : State} {rest : List Bool}

/-- A chunk to a protected page whose exchanges succeed stores nothing. -/
theorem State.PlansProtected.chunkDone_device (h : s.PlansProtected d u) (ha : u.AllSucceed rest) :
    ∃ e, u.chunkDone.device u.reqBus = some e ∧ d.BytesKept e := by
  obtain ⟨hpar, -, ⟨e, he, hkept⟩, hstart, -, hguarded⟩ := h
  obtain ⟨k, k', hchunk⟩ := u.sendChunk_device u.nextData
  rw [he, ha.nextTx, ha.nextSent, hpar] at hchunk
  have hwren := hkept.trans (e.transaction_wren_bytesKept (par := s.par) k 0)
  have hpage : (e.transaction s.par k wrenBytes true 0).protects s.par (devicePageBase s.par u.curAddr) = true := by
    rw [hwren.protects, (devicePage_of_lt hstart).1]
    exact hguarded
  have hwrite := hwren.trans (Device.transaction_write_bytesKept k' 0 u.nextData hpage)
  exact ⟨_, by rw [State.chunkDone, State.delay_device, hchunk]; rfl, hwrite.passTime Config.writeCycleMs⟩

/-- Protection reaches up to the end of the array, so the next chunk's page is protected too. -/
theorem State.PlansProtected.nextPlan (h : s.PlansProtected d u) (hl : s.par.Legal) (hu : u.AtPlan) (ha : u.AllSucceed rest)
    (hn : u.nextLen ≠ u.remLen.toNat) : s.PlansProtected d u.nextPlan := by
  obtain ⟨e, he, hkept⟩ := h.chunkDone_device ha
  obtain ⟨hpar, hposted, -, hstart, hfits, hguarded⟩ := h
  obtain ⟨-, hlt⟩ := State.nextLen_lt hn
  obtain ⟨-, hrem, -, haddr⟩ := State.nextPlan_sums hu hn
  replace haddr := haddr (hfits.trans hl.2.1)
  refine ⟨u.nextPlan_par.trans hpar, u.nextPlan_posted.trans hposted, ⟨e, ?_, hkept⟩, by omega, by omega,
    Device.protects_mono (by omega) hguarded⟩
  rw [State.nextPlan_reqBus]
  exact he

end

/-- Settles O40: every chunk lies in a page from the first protected one up, so none stores a byte. -/
theorem protectedWriteIsSilent : Obligations.ProtectedWriteIsSilent := by
  unfold Obligations.ProtectedWriteIsSilent
  intro s bus addr len value d rest hl hr ha hsrc hd hguarded htx
  refine execWrite_loop (P := fun u => u.reqBus = bus ∧ s.PlansProtected d u ∧ u.AllSucceed rest)
    (Q := fun t => s.Finished t .ok 0 ∧ ∀ a, t.memByte bus a = s.memByte bus a) value hr ha hsrc ?failed ?last ?next ?start
  case failed =>
    rintro u - ⟨-, -, hall⟩ hfailed
    rw [hall.nextSent] at hfailed
    cases hfailed
  case last =>
    rintro u - ⟨rfl, hplan, hall⟩ - -
    obtain ⟨e, he, hmem, -, -⟩ := hplan.chunkDone_device hall
    refine ⟨⟨rfl, ?_, rfl, rfl⟩, fun a => ?_⟩
    · rw [← hplan.posted]
      simp [State.chunkDone, State.sendChunk_posted]
    · rw [State.finish_memByte, State.memByte_of_device he, State.memByte_of_device hd, hmem]
  case next =>
    rintro u hu ⟨rfl, hplan, hall⟩ - hn
    exact ⟨u.nextPlan_reqBus, hplan.nextPlan hl hu hall hn, hall.nextPlan hu hn⟩
  case start =>
    exact ⟨rfl, ⟨rfl, rfl, ⟨d, hd, rfl, rfl, rfl⟩, ha.2.1, ha.2.2, hguarded⟩, htx⟩

end Sys2Proof.Machine
end

section
/-! SUPPORT. The decoder and the encoder undo each other, and the result record as a number (30_encoding.md). -/

namespace Sys2Proof.Machine

/-! ## Request descriptors (30_encoding.md R100, R101) -/

/-- The seven fields cover the word, so no bit is dropped. -/
theorem joinDescriptor_splitDescriptor (w : BitVec 64) : joinDescriptor (splitDescriptor w) = w := by
  simp only [joinDescriptor, splitDescriptor, BitVec.extractLsb'_append_extractLsb'_eq_extractLsb']
  exact BitVec.extractLsb'_eq_self

/-- The seven fields do not overlap: each is read past the fields below it, and before those above it. -/
theorem splitDescriptor_joinDescriptor (d : Descriptor) : splitDescriptor (joinDescriptor d) = d := by
  obtain ⟨op, rsv0, value, addr, len, bus, rsv1⟩ := d
  simp only [splitDescriptor, joinDescriptor, Descriptor.mk.injEq]
  refine ⟨?op, ?rsv0, ?value, ?addr, ?len, ?bus, ?rsv1⟩
  all_goals repeat rw [BitVec.extractLsb'_append_eq_of_le (by decide)]
  case rsv1 => exact BitVec.extractLsb'_eq_self
  all_goals rw [BitVec.extractLsb'_append_eq_of_add_le (by decide), BitVec.extractLsb'_eq_self]

theorem decodeRequest_joinDescriptor (d : Descriptor) : decodeRequest (joinDescriptor d) = decodeFields d := by
  rw [decodeRequest, splitDescriptor_joinDescriptor]

/-- Fields that decode have their reserved bits zero, and OP names the operation they decode to (30_encoding.md R103). -/
theorem encode_of_decodeFields {d : Descriptor} {i : Instr} (h : decodeFields d = .instr i) :
    encode i = .descriptor (joinDescriptor d) := by
  obtain ⟨op, rsv0, value, addr, len, bus, rsv1⟩ := d
  unfold decodeFields at h
  split at h
  · cases h
  rename_i hrsv
  obtain ⟨rfl, rfl⟩ : rsv0 = 0 ∧ rsv1 = 0 := by simpa using hrsv
  repeat' split at h
  all_goals cases h
  all_goals
    rename_i hop
    cases hop
    rfl

theorem encode_of_decodeRequest {w : BitVec 64} {i : Instr} (h : decodeRequest w = .instr i) : encode i = .descriptor w := by
  rw [encode_of_decodeFields h, joinDescriptor_splitDescriptor]

/-! ## Frames (30_encoding.md R91 to R95) -/

/-- The branches of the decoder are the six formats, each at its opcode and its length; an address is put together from its own
two bytes (30_encoding.md R93). -/
theorem encode_of_decodeFrame {bytes : List (BitVec 8)} {i : Instr} (h : decodeFrame bytes = .instr i) :
    encode i = .frame bytes := by
  unfold decodeFrame at h
  repeat' split at h
  all_goals cases h
  all_goals subst_vars
  all_goals simp only [encode, hi8_joinAddr, lo8_joinAddr]

/-! ## The statements -/

/-- Settles O1: a request's descriptor is split into the fields it was joined from, and each frame is decoded by its format. -/
theorem decodeOfEncodeIsTheInstruction : Obligations.DecodeOfEncodeIsTheInstruction := by
  unfold Obligations.DecodeOfEncodeIsTheInstruction
  intro i
  cases i with
  | write | read | readByte | readStatus | writeStatus => exact decodeRequest_joinDescriptor _
  | wrsr value => exact decodeFrame_wrsr value
  | writeFrame addr data => exact decodeFrame_write addr data
  | readFrame addr => exact decodeFrame_read addr
  | wrdi => exact decodeFrame_wrdi
  | rdsr => exact decodeFrame_rdsr
  | wren => exact decodeFrame_wren

/-- Settles O2: what the decoder accepts, descriptor or frame, fixes every bit of it. -/
theorem encodeOfDecodeIsTheWord : Obligations.EncodeOfDecodeIsTheWord := by
  unfold Obligations.EncodeOfDecodeIsTheWord
  intro e i h
  cases e with
  | descriptor w => exact encode_of_decodeRequest h
  | frame bytes => exact encode_of_decodeFrame h

/-- Settles O3, by running the decoder on the eleven words. -/
theorem writtenOutWordsDecode : Obligations.WrittenOutWordsDecode := by
  unfold Obligations.WrittenOutWordsDecode
  decide

/-- Settles O4: RESULT_STATUS fills the eight bits below RESULT_VALUE. -/
theorem resultWordIsValueAboveStatus : Obligations.ResultWordIsValueAboveStatus := by
  unfold Obligations.ResultWordIsValueAboveStatus
  intro s
  calc (resultWord s).toNat
    _ = s.resultValue.toNat <<< 8 ||| s.resultStatus.toNat := BitVec.toNat_append _ _
    _ = s.resultValue.toNat <<< 8 + s.resultStatus.toNat := (Nat.shiftLeft_add_eq_or_of_lt s.resultStatus.isLt _).symm
    _ = s.resultValue.toNat * 256 + s.resultStatus.toNat := by rw [Nat.shiftLeft_eq]

end Sys2Proof.Machine
end

section
/-! SUPPORT. An operation uses some fields of its descriptor (30_encoding.md R102); no label of it reads the others. -/

namespace Sys2Proof.Machine

/-! ## The operands an operation does not use -/

/-- The state with the operands blotted out that its latched operation does not use (30_encoding.md R102). -/
def State.blotUnused (s : State) : State :=
  { s with
    reqAddr := if s.reqOp = opWrite ∨ s.reqOp = opRead ∨ s.reqOp = opReadByte then s.reqAddr else 0
    reqLen := if s.reqOp = opWrite ∨ s.reqOp = opRead then s.reqLen else 0
    reqValue := if s.reqOp = opWriteStatus then s.reqValue else 0 }

section
variable {s : State}

theorem State.blotUnused_reqAddr (h : s.reqOp = opWrite ∨ s.reqOp = opRead ∨ s.reqOp = opReadByte) :
    s.blotUnused.reqAddr = s.reqAddr := if_pos h

theorem State.blotUnused_reqLen (h : s.reqOp = opWrite ∨ s.reqOp = opRead) : s.blotUnused.reqLen = s.reqLen := if_pos h

theorem State.blotUnused_reqValue (h : s.reqOp = opWriteStatus) : s.blotUnused.reqValue = s.reqValue := if_pos h

@[simp] theorem State.blotUnused_phase : s.blotUnused.phase = s.phase := rfl
@[simp] theorem State.blotUnused_par : s.blotUnused.par = s.par := rfl
@[simp] theorem State.blotUnused_reqOp : s.blotUnused.reqOp = s.reqOp := rfl
@[simp] theorem State.blotUnused_xferOk : s.blotUnused.xferOk = s.xferOk := rfl
@[simp] theorem State.blotUnused_remLen : s.blotUnused.remLen = s.remLen := rfl
@[simp] theorem State.blotUnused_chunkLen : s.blotUnused.chunkLen = s.chunkLen := rfl
@[simp] theorem State.blotUnused_curOff : s.blotUnused.curOff = s.curOff := rfl
@[simp] theorem State.blotUnused_src : s.blotUnused.src = s.src := rfl
@[simp] theorem State.blotUnused_dst : s.blotUnused.dst = s.dst := rfl
@[simp] theorem State.blotUnused_descriptorOk : s.blotUnused.descriptorOk = s.descriptorOk := rfl
@[simp] theorem State.blotUnused_busOk : s.blotUnused.busOk = s.busOk := rfl

/-! ## DECODE -/

theorem State.blotUnused_boundsOk : s.blotUnused.boundsOk = s.boundsOk := by
  unfold State.boundsOk
  rw [State.blotUnused_reqOp, State.blotUnused_par]
  split
  · rename_i hop
    rw [State.blotUnused_reqLen hop, State.blotUnused_reqAddr (hop.imp_right .inl)]
  split
  · rename_i hop
    rw [State.blotUnused_reqAddr (.inr (.inr hop))]
  · rfl

theorem State.blotUnused_bufferFault : s.blotUnused.bufferFault = s.bufferFault := by
  unfold State.bufferFault
  rw [State.blotUnused_reqOp, State.blotUnused_src, State.blotUnused_dst]
  by_cases hop : s.reqOp = opWrite ∨ s.reqOp = opRead
  · rw [State.blotUnused_reqLen hop]
  · simp only [not_or.1 hop, false_and]

theorem State.blotUnused_startSplitter (hop : s.reqOp = opWrite) :
    s.blotUnused.startSplitter = s.startSplitter.blotUnused := by
  simp [State.startSplitter, State.blotUnused, hop]

theorem State.blotUnused_startOperation : s.blotUnused.startOperation = s.startOperation.blotUnused := by
  unfold State.startOperation
  rw [State.blotUnused_reqOp]
  split
  · rename_i hop
    rw [State.blotUnused_startSplitter hop]
    rfl
  repeat' split
  all_goals rfl

theorem lineDecode_blotUnused : lineDecode s.blotUnused = mapNext State.blotUnused (lineDecode s) := by
  unfold lineDecode
  rw [State.blotUnused_descriptorOk, State.blotUnused_busOk, State.blotUnused_boundsOk, State.blotUnused_bufferFault,
    State.blotUnused_startOperation]
  repeat' split
  all_goals rfl

/-! ## The labels that branch, and those that read an operand -/

theorem lineWTx_blotUnused : lineWTx s.blotUnused = mapNext State.blotUnused (lineWTx s) := by
  unfold lineWTx
  rw [State.blotUnused_src, State.blotUnused_curOff, State.blotUnused_chunkLen]
  split <;> rfl

theorem lineWDesel_blotUnused : lineWDesel s.blotUnused = (lineWDesel s).blotUnused := by
  unfold lineWDesel
  rw [State.blotUnused_xferOk]
  split <;> rfl

theorem lineWDelay_blotUnused : lineWDelay s.blotUnused = (lineWDelay s).blotUnused := by
  unfold lineWDelay
  rw [State.blotUnused_chunkLen, State.blotUnused_remLen]
  split <;> rfl

theorem lineRCmd_blotUnused (hop : s.reqOp = opRead ∨ s.reqOp = opReadByte) :
    lineRCmd s.blotUnused = (lineRCmd s).blotUnused := by
  unfold lineRCmd
  rw [State.blotUnused_reqAddr (.inr hop)]
  rfl

theorem State.blotUnused_runBytes (hop : s.reqOp = opRead) : s.blotUnused.runBytes = s.runBytes := by
  unfold State.runBytes
  rw [State.blotUnused_reqLen (.inr hop)]
  rfl

theorem lineRDataRun_blotUnused (hop : s.reqOp = opRead) :
    lineRDataRun s.blotUnused = mapNext State.blotUnused (lineRDataRun s) := by
  have hbytes := State.blotUnused_runBytes hop
  cases hdst : storeBytes s.dst s.runBytes with
  | none =>
    rw [lineRDataRun_overrun hdst, lineRDataRun_overrun (s := s.blotUnused) (hbytes ▸ hdst)]
    rfl
  | some dst =>
    rw [lineRDataRun_stored hdst, lineRDataRun_stored (s := s.blotUnused) (hbytes ▸ hdst), State.blotUnused_reqLen (.inr hop)]
    rfl

theorem lineRData_blotUnused (hop : s.reqOp = opRead ∨ s.reqOp = opReadByte) :
    lineRData s.blotUnused = mapNext State.blotUnused (lineRData s) := by
  unfold lineRData
  rw [State.blotUnused_reqOp]
  split
  · rfl
  · rename_i hrun
    exact lineRDataRun_blotUnused (hop.resolve_right hrun)

theorem lineRDesel_blotUnused : lineRDesel s.blotUnused = (lineRDesel s).blotUnused := by
  unfold lineRDesel
  rw [State.blotUnused_xferOk, State.blotUnused_par]
  repeat' split
  all_goals rfl

theorem lineSDesel_blotUnused : lineSDesel s.blotUnused = (lineSDesel s).blotUnused := by
  unfold lineSDesel
  rw [State.blotUnused_xferOk]
  split <;> rfl

theorem lineWsTx_blotUnused (hop : s.reqOp = opWriteStatus) : lineWsTx s.blotUnused = (lineWsTx s).blotUnused := by
  unfold lineWsTx
  rw [State.blotUnused_reqValue hop]
  rfl

theorem lineWsDesel_blotUnused : lineWsDesel s.blotUnused = (lineWsDesel s).blotUnused := by
  unfold lineWsDesel
  rw [State.blotUnused_xferOk]
  split <;> rfl

/-! ## Every line -/

/-- No reset is coming, and PHASE is a label of the latched operation (10_state.md R32). -/
structure State.Underway (s : State) : Prop where
  noReset : s.resetIn = none
  label   : s.phase.runs s.reqOp

/-- A line of a request comes out the same, but for the unused operands, from the state without them. -/
theorem line_blotUnused (h : s.phase.runs s.reqOp) : line s.blotUnused = mapNext State.blotUnused (line s) := by
  unfold line
  rw [State.blotUnused_phase]
  cases hp : s.phase <;> rw [hp] at h <;> simp only
  case decode => exact lineDecode_blotUnused
  case wTx => exact lineWTx_blotUnused
  case wDesel => exact congrArg Host.Outcome.next lineWDesel_blotUnused
  case wDelay => exact congrArg Host.Outcome.next lineWDelay_blotUnused
  case rCmd => exact congrArg Host.Outcome.next (lineRCmd_blotUnused h)
  case rData => exact lineRData_blotUnused h
  case rDesel => exact congrArg Host.Outcome.next lineRDesel_blotUnused
  case sDesel => exact congrArg Host.Outcome.next lineSDesel_blotUnused
  case wsTx => exact congrArg Host.Outcome.next (lineWsTx_blotUnused h)
  case wsDesel => exact congrArg Host.Outcome.next lineWsDesel_blotUnused
  all_goals rfl

/-- The operation that DECODE starts is the latched one (60_exceptions.md R236, R243). -/
theorem State.startOperation_underway (hr : s.resetIn = none) (hok : s.descriptorOk = true) : s.startOperation.Underway := by
  obtain ⟨-, -, hops⟩ := of_decide_eq_true hok
  unfold State.startOperation
  split
  · exact ⟨hr, ‹_›⟩
  split
  · exact ⟨hr, ‹_›⟩
  split
  · exact ⟨hr, ‹_›⟩
  · rename_i hwrite hread hreadStatus
    have hop : s.reqOp = opWriteStatus := by tauto
    exact ⟨hr, hop⟩

theorem lineDecode_underway {t : State} (hr : s.resetIn = none) (ht : lineDecode s = .next t) : t.Underway := by
  unfold lineDecode at ht
  split at ht
  · cases ht; exact ⟨hr, trivial⟩
  rename_i hok
  repeat' split at ht
  all_goals cases ht
  · exact ⟨hr, trivial⟩
  · exact ⟨hr, trivial⟩
  · exact State.startOperation_underway hr (by simpa using hok)

/-- A line goes on inside its operation, or ends the request (10_state.md R32). -/
theorem line_underway {t : State} (h : s.Underway) (ht : line s = .next t) : t.Underway := by
  obtain ⟨hr, hop⟩ := h
  unfold line at ht
  cases hp : s.phase <;> rw [hp] at hop <;> simp only [hp] at ht
  case decode => exact lineDecode_underway hr ht
  case wTx =>
    obtain ⟨-, rfl⟩ := lineWTx_next ht
    exact ⟨hr, hop⟩
  case rData =>
    unfold lineRData at ht
    split at ht
    · cases ht
      exact ⟨hr, hop⟩
    · obtain ⟨k, dst, -, rfl⟩ := lineRDataRun_next ht
      exact ⟨hr, hop⟩
  all_goals cases ht
  case idle => exact ⟨hr, hp ▸ hop⟩
  case wDesel =>
    unfold lineWDesel
    split
    · exact ⟨hr, hop⟩
    · exact ⟨hr, trivial⟩
  case wDelay =>
    unfold lineWDelay
    split
    · exact ⟨hr, trivial⟩
    · exact ⟨hr, hop⟩
  case rDesel =>
    unfold lineRDesel
    split
    · exact ⟨hr, trivial⟩
    split
    · exact ⟨hr, hop⟩
    · exact ⟨hr, trivial⟩
  case sDesel =>
    unfold lineSDesel
    split <;> exact ⟨hr, trivial⟩
  case wsDesel =>
    unfold lineWsDesel
    split
    · exact ⟨hr, hop⟩
    · exact ⟨hr, trivial⟩
  case rDelay | wsDelay => exact ⟨hr, trivial⟩
  all_goals exact ⟨hr, hop⟩

end

/-! ## Runs of lines, and whole requests -/

/-- A run of lines carries the blotting from its start to its end. -/
theorem runLines_blotUnused : ∀ (n : Nat) {s : State}, s.Underway →
    runLines n s.blotUnused = mapNext State.blotUnused (runLines n s) := by
  intro n
  induction n with
  | zero => exact fun _ => rfl
  | succ n ih =>
    intro s h
    by_cases hp : s.phase = .idle
    · rw [runLines_idle hp, runLines_idle (s := s.blotUnused) hp]
      rfl
    · have hp' : s.blotUnused.phase ≠ .idle := hp
      simp only [runLines, if_neg hp, if_neg hp', tick_of_noReset h.noReset, tick_of_noReset (s := s.blotUnused) h.noReset,
        line_blotUnused h.label]
      cases ht : line s with
      | next t => exact ih (line_underway h ht)
      | fault f => rfl
      | refused r => rfl

/-- More lines than a run needs change nothing, whether it ends in IDLE or in a fault. -/
theorem runLines_add_of_ends {n : Nat} : ∀ {s : State}, (∀ t, runLines n s = .next t → t.phase = .idle) → ∀ k,
    runLines (n + k) s = runLines n s := by
  induction n with
  | zero => exact fun hend k => runLines_idle (hend _ rfl) _
  | succ n ih =>
    intro s hend k
    rw [Nat.succ_add]
    by_cases hp : s.phase = .idle
    · rw [runLines_idle hp, runLines_idle hp]
    · cases hu : tick s with
      | next u =>
        rw [runLines_tick hp hu] at hend
        rw [runLines_tick hp hu, runLines_tick hp hu]
        exact ih hend k
      | fault f => simp [runLines, hp, hu]
      | refused r => simp [runLines, hp, hu]

section
variable {s : State} (hr : s.resetIn = none)
include hr

/-- A request that ends comes out, but for the registers of its operands, as a run that starts without the unused ones and has
at least its line budget. -/
theorem runRequest_blotOperands {d : Descriptor} {n : Nat} (hend : ∀ t, runRequest d s = .next t → t.phase = .idle)
    (hn : (s.accept d).lineBudget ≤ n) :
    mapNext State.blotOperands (runRequest d s) = mapNext State.blotOperands (runLines n (s.accept d).blotUnused) := by
  obtain ⟨k, rfl⟩ := Nat.exists_eq_add_of_le hn
  have hstart : (s.accept d).Underway := ⟨hr, trivial⟩
  rw [runLines_blotUnused _ hstart, runLines_add_of_ends hend, runRequest]
  cases runLines (s.accept d).lineBudget (s.accept d) <;> rfl

/-- Two requests that agree in the fields their operation uses have the same outcome, but for the registers of the operands. -/
theorem exec_blotOperands {i i' : Instr} {d d' : Descriptor} (hi : isRequest i = true) (hi' : isRequest i' = true)
    (hd : exec i s = runRequest d s) (hd' : exec i' s = runRequest d' s)
    (hsame : (s.accept d).blotUnused = (s.accept d').blotUnused) :
    mapNext State.blotOperands (exec i s) = mapNext State.blotOperands (exec i' s) := by
  rw [hd, hd', runRequest_blotOperands hr (fun t ht => exec_request_phase hi hr (hd.trans ht)) (Nat.le_max_left _ _),
    runRequest_blotOperands hr (fun t ht => exec_request_phase hi' hr (hd'.trans ht)) (Nat.le_max_right _ _), hsame]

end

/-- Settles O17: no label of an operation reads a field that the operation does not use, and the longer line budget of a longer
LEN is not drawn on. -/
theorem unusedFieldsAreIgnored : Obligations.UnusedFieldsAreIgnored := by
  unfold Obligations.UnusedFieldsAreIgnored
  intro s bus addr addr' len len' value value' hr
  refine ⟨?write, ?read, ?readByte, ?readStatus, ?writeStatus⟩
  all_goals exact exec_blotOperands hr rfl rfl rfl rfl rfl

end Sys2Proof.Machine
end

section
/-! SUPPORT. READ_STATUS from its RDSR exchange to its result: how many bytes come, which byte it is, and what is posted
(40_status_accessor.md R121). -/

namespace Sys2Proof.Machine

/-! ## The bits of the status byte (43_device_commands.md R195) -/

theorem statusBits_toNat : ∀ wpen bp1 bp0 wel wip : Bool,
    (BitVec.ofBool wpen ++ 0#3 ++ BitVec.ofBool bp1 ++ BitVec.ofBool bp0 ++ BitVec.ofBool wel ++ BitVec.ofBool wip).toNat =
      wpen.toNat * 128 + bp1.toNat * 8 + bp0.toNat * 4 + wel.toNat * 2 + wip.toNat := by decide

theorem Device.statusByte_toNat (d : Device) : d.statusByte.toNat =
    d.wpen.toNat * 128 + d.bp1.toNat * 8 + d.bp0.toNat * 4 + d.wel.toNat * 2 + (if 0 < d.wipMs then 1 else 0) := by
  rw [Device.statusByte, statusBits_toNat, Device.wip_eq]
  split <;> simp [*]

/-- The bits WRSR writes, beside WEL = 0 and WIP = 0, mask its value (40_status_accessor.md R127). -/
theorem statusBits_of_value (v : BitVec 8) :
    BitVec.ofBool (v.getLsbD 7) ++ 0#3 ++ BitVec.ofBool (v.getLsbD 3) ++ BitVec.ofBool (v.getLsbD 2) ++ BitVec.ofBool false ++
      BitVec.ofBool false = v &&& 0x8C#8 := by
  apply BitVec.eq_of_getLsbD_eq
  intro i hi
  simp only [BitVec.getLsbD_append, BitVec.getLsbD_and]
  interval_cases i <;> simp

/-! ## The receive exchange and the Deselect -/

section
variable {s : State}

/-- The bytes delivered tell what the transport answered (60_exceptions.md R250). -/
theorem State.nextRx_of_rxBytes {b : BitVec 8} {n : Nat} {xs : List (BitVec 8)} (h : s.rxBytes b n = xs) :
    s.nextRx n = xs.length := by rw [← s.length_rxBytes b, h]

/-- A receive exchange of one byte succeeds on every answer but 0 (60_exceptions.md R250). -/
theorem State.nextRx_one {c : Nat} {rest : List Nat} (h : s.rxAnswers = (c + 1) :: rest) : s.nextRx 1 = 1 :=
  (State.nextRx_cons h).trans (Nat.min_eq_right (Nat.le_add_left 1 c))

theorem lineSDesel_trace (s : State) : (lineSDesel s).trace = s.trace ++ [.deselect s.reqBus] := by
  unfold lineSDesel
  split <;> rfl

theorem lineSDesel_received (h : s.nextRx 1 = 1) :
    lineSDesel (lineSData s) = (lineSData s).deselect.finish .ok ((s.rxBytes s.reqBus 1).headD 0) := by
  have hok : (lineSData s).xferOk = true := decide_eq_true h
  have hbyte : (lineSData s).rxByte = (s.rxBytes s.reqBus 1).headD 0 := if_pos h
  rw [lineSDesel, if_pos hok, hbyte]

theorem lineSDesel_noData (h : s.nextRx 1 ≠ 1) : lineSDesel (lineSData s) = (lineSData s).deselect.raise .noData := by
  have hok : (lineSData s).xferOk = false := decide_eq_false h
  rw [lineSDesel, hok, if_neg Bool.false_ne_true]

/-- The device whose command byte came through answers its status register, busy or not (43_device_commands.md R195, R201). -/
theorem rxBytes_lineSCmd {d : Device} (hd : s.device s.reqBus = some d) (htx : s.nextTx = true)
    (hrx : (lineSCmd (lineSSel s)).nextRx 1 = 1) : (lineSCmd (lineSSel s)).rxBytes s.reqBus 1 = [d.statusByte] := by
  have hdev : (lineSCmd (lineSSel s)).device s.reqBus = some (Device.onTx rdsrBytes true d.onSelect) := by
    have h := ((lineSSel s).stageBytes rdsrBytes).transmit_device
    rw [State.stageBytes_staged, State.stageBytes_nextTx] at h
    refine h.trans ?_
    rw [State.stageBytes_device, lineSSel, State.goto_device, State.goto_nextTx, State.select_nextTx, htx]
    exact congrArg (Option.map _) (s.select_device.trans (congrArg (Option.map _) hd))
  rw [State.rxBytes, if_pos hrx, hdev]
  rfl

/-- With both exchanges successful, READ_STATUS posts OK and the status byte of the device. -/
theorem execReadStatus_statusByte {bus : BitVec 8} (addr len : BitVec 16) (value : BitVec 8) {d : Device} {c : Nat}
    {rest : List Nat} (hr : s.resetIn = none) (hd : s.device bus = some d) (htx : s.nextTx = true)
    (hrx : s.rxAnswers = (c + 1) :: rest) :
    ∃ t, execReadStatus bus addr len value s = .next t ∧ s.Finished t .ok d.statusByte := by
  have hgot : (lineSCmd (lineSSel (s.started opReadStatus .sSel bus addr len value))).nextRx 1 = 1 :=
    State.nextRx_one (c := c) (rest := rest) hrx
  have hbyte := rxBytes_lineSCmd (s := s.started opReadStatus .sSel bus addr len value) hd htx hgot
  refine ⟨_, execReadStatus_eq addr len value hr (State.lt_of_device hd), ?_⟩
  rw [lineSDesel_received hgot]
  exact ⟨rfl, rfl, rfl, congrArg (·.headD 0) hbyte⟩

end

/-- Settles O19: the four lines perform the four events, and the Deselect posts OK exactly when the receive exchange delivered
its byte. -/
theorem readStatusRunsItsFourEvents : Obligations.ReadStatusRunsItsFourEvents := by
  unfold Obligations.ReadStatusRunsItsFourEvents
  intro s bus addr len value hr hb
  refine ⟨_, (lineSCmd (lineSSel (s.started opReadStatus .sSel bus addr len value))).rxBytes bus 1,
    execReadStatus_eq addr len value hr hb, ?trace, ?length, ?received, ?noData⟩
  case trace =>
    rw [lineSDesel_trace]
    rfl
  case length =>
    rw [State.length_rxBytes]
    exact State.nextRx_le _ 1
  case received =>
    intro v hv
    rw [lineSDesel_received (State.nextRx_of_rxBytes hv)]
    exact ⟨rfl, rfl, rfl, congrArg (·.headD 0) hv⟩
  case noData =>
    intro hnil
    rw [lineSDesel_noData (by rw [State.nextRx_of_rxBytes hnil]; decide)]
    exact ⟨rfl, rfl, rfl, rfl⟩

/-- Settles O20: the byte received is the device's status byte, whose bits are the number's digits. -/
theorem readStatusReturnsTheRegister : Obligations.ReadStatusReturnsTheRegister := by
  unfold Obligations.ReadStatusReturnsTheRegister
  intro s bus addr len value d c rest hr hd htx hrx
  obtain ⟨t, hexec, hidle, -, hstatus, hvalue⟩ := execReadStatus_statusByte addr len value hr hd htx hrx
  exact ⟨t, hexec, hidle, hstatus, by rw [hvalue, d.statusByte_toNat]⟩

end Sys2Proof.Machine
end

section
/-! SUPPORT. WRITE_STATUS as its two transactions (40_status_accessor.md R126): what they do to the device of the request's bus,
what they leave of everything else, and the register a READ_STATUS finds after it (R127). -/

namespace Sys2Proof.Machine

/-! ## The two transactions -/

/-- The WREN and the WRSR transaction of WRITE_STATUS, with XFER_OK from the second. -/
def State.sendStatus (s : State) : State :=
  ((s.sendFrame wrenBytes).sendFrame (wrsrBytes s.reqValue)).setXferOk (s.sendFrame wrenBytes).nextTx

/-- WRITE_STATUS on a bus that is there: its two transactions, then the delay and OK, or TRANSPORT_FAIL. -/
theorem execWriteStatus_sendStatus {s : State} {bus : BitVec 8} (addr len : BitVec 16) (value : BitVec 8)
    (hr : s.resetIn = none) (hb : bus.toNat < s.numBuses) :
    execWriteStatus bus addr len value s = .next
      (if ((s.started opWriteStatus .wsEnSel bus addr len value).sendFrame wrenBytes).nextTx
        then ((s.started opWriteStatus .wsEnSel bus addr len value).sendStatus.delay Config.statusWriteMs).finish .ok 0
        else (s.started opWriteStatus .wsEnSel bus addr len value).sendStatus.raise .transportFail) := by
  rw [execWriteStatus_eq addr len value hr hb rfl, afterWsEnable_eq, writeStatusEnd_eq]
  rfl

section
variable (s : State)

/-- The six events before the result (40_status_accessor.md R126). -/
theorem State.sendStatus_trace : s.sendStatus.trace = s.trace ++
    [.select s.reqBus, .tx s.reqBus wrenBytes s.nextTx, .deselect s.reqBus, .select s.reqBus,
      .tx s.reqBus (wrsrBytes s.reqValue) (s.sendFrame wrenBytes).nextTx, .deselect s.reqBus] := by
  simp [State.sendStatus]

/-- The device on the request's bus goes through the two transactions. -/
theorem State.sendStatus_device : ∃ k k',
    s.sendStatus.device s.reqBus = (s.device s.reqBus).map fun d =>
      (d.transaction s.par k wrenBytes s.nextTx 0).transaction s.par k' (wrsrBytes s.reqValue)
        (s.sendFrame wrenBytes).nextTx 0 := by
  have hwren := s.sendFrame_device wrenBytes
  have hwrsr := (s.sendFrame wrenBytes).sendFrame_device (wrsrBytes s.reqValue)
  rw [State.sendFrame_reqBus, hwren, Option.map_map, State.sendFrame_par] at hwrsr
  exact ⟨_, _, hwrsr⟩

theorem State.sendStatus_device_ne {b : BitVec 8} (h : b ≠ s.reqBus) : s.sendStatus.device b = s.device b :=
  ((s.sendFrame wrenBytes).sendFrame_device_ne _ h).trans (s.sendFrame_device_ne _ h)

theorem State.sendStatus_released (hb : s.reqBus.toNat < s.numBuses) : s.ChipSelectReleased s.reqBus s.sendStatus := by
  refine ⟨?_, fun b h => ((s.sendFrame wrenBytes).sendFrame_chipSelect_ne _ h).trans (s.sendFrame_chipSelect_ne _ h)⟩
  obtain ⟨v, hv⟩ := State.chipSelect_isSome hb
  have h := (s.sendFrame wrenBytes).sendFrame_chipSelect (wrsrBytes s.reqValue)
  rw [State.sendFrame_reqBus, s.sendFrame_chipSelect, hv] at h
  exact h

end

/-! ## What WRITE_STATUS leaves unchanged -/

/-- A WREN frame stores nothing, whether its exchange failed or not (43_device_commands.md R194, R203). -/
theorem Device.transaction_wren_mem (par : Config.Params) (k c : Nat) (ok : Bool) (d : Device) :
    (d.transaction par k wrenBytes ok c).mem = d.mem := by
  cases ok with
  | true => rw [wrenBytes, Device.transaction_wren]; rfl
  | false => rw [Device.transaction_garbled]; rfl

/-- A WRSR frame stores nothing, whether its exchange failed or not (43_device_commands.md R197, R203). -/
theorem Device.transaction_wrsr_mem (par : Config.Params) (k c : Nat) (v : BitVec 8) (ok : Bool) (d : Device) :
    (d.transaction par k (wrsrBytes v) ok c).mem = d.mem := by
  cases ok with
  | true => rw [wrsrBytes, Device.transaction_wrsr]; exact Device.doWrsr_mem k v
  | false => rw [Device.transaction_garbled]; rfl

/-- `t` is `s` in the course of a WRITE_STATUS, its transactions over and `ms` milliseconds passed. -/
structure State.AfterStatusWrite (ms : Nat) (s t : State) : Prop where
  bytes    : ∀ b a, t.memByte b a = s.memByte b a
  others   : ∀ b, b ≠ s.reqBus → t.device b = (s.device b).map (Device.passTime ms)
  released : s.ChipSelectReleased s.reqBus t
  inputs   : s.InputsKept t
  dst      : t.dst = s.dst
  rxByte   : t.rxByte = s.rxByte

section
variable {s t : State}

theorem State.sendStatus_afterStatusWrite (hb : s.reqBus.toNat < s.numBuses) : s.AfterStatusWrite 0 s.sendStatus where
  bytes b a := by
    by_cases h : b = s.reqBus
    · subst h
      obtain ⟨d, hd⟩ := State.device_isSome hb
      obtain ⟨k, k', hsent⟩ := s.sendStatus_device
      rw [hd] at hsent
      rw [State.memByte_of_device hsent, State.memByte_of_device hd, Device.transaction_wrsr_mem, Device.transaction_wren_mem]
    · rw [State.memByte, s.sendStatus_device_ne h]
      rfl
  others b h := (s.sendStatus_device_ne h).trans (congrFun Option.map_id _).symm
  released := s.sendStatus_released hb
  inputs := ⟨⟨rfl, rfl, rfl, rfl, rfl, rfl, rfl⟩, ⟨rfl, rfl, rfl, rfl, rfl⟩, rfl⟩
  dst := rfl
  rxByte := rfl

/-- Time that passes stores no byte (43_device_commands.md R205). -/
theorem State.delay_memByte (ms : Nat) (b : BitVec 8) (a : Nat) : (s.delay ms).memByte b a = s.memByte b a := by
  rw [State.memByte, State.memByte, State.delay_device]
  cases s.device b <;> rfl

theorem State.AfterStatusWrite.delay (h : s.AfterStatusWrite 0 t) (ms : Nat) : s.AfterStatusWrite ms (t.delay ms) where
  bytes b a := (State.delay_memByte ms b a).trans (h.bytes b a)
  others b hne := by
    rw [State.delay_device, h.others b hne, Option.map_map]
    rfl
  released := ⟨(t.delay_chipSelect ms _).trans h.released.1, fun b hne => (t.delay_chipSelect ms b).trans (h.released.2 b hne)⟩
  inputs := h.inputs
  dst := h.dst
  rxByte := h.rxByte

/-- Posting the result touches no device and no input. -/
theorem State.AfterStatusWrite.finish {ms : Nat} (h : s.AfterStatusWrite ms t) (st : Status) (v : BitVec 8) :
    s.AfterStatusWrite ms (t.finish st v) := ⟨h.bytes, h.others, h.released, h.inputs, h.dst, h.rxByte⟩

/-- WRITE_STATUS's state when its result is posted. -/
theorem execWriteStatus_afterStatusWrite {bus : BitVec 8} {addr len : BitVec 16} {value : BitVec 8} (hr : s.resetIn = none)
    (hb : bus.toNat < s.numBuses) (h : execWriteStatus bus addr len value s = .next t) :
    ∃ ms, (ms = 0 ∨ ms = 4) ∧ (s.started opWriteStatus .wsEnSel bus addr len value).AfterStatusWrite ms t := by
  obtain rfl := Host.Outcome.next.inj ((execWriteStatus_sendStatus addr len value hr hb).symm.trans h)
  have hsent := State.sendStatus_afterStatusWrite (s := s.started opWriteStatus .wsEnSel bus addr len value) hb
  split
  · exact ⟨4, .inr rfl, (hsent.delay 4).finish .ok 0⟩
  · exact ⟨0, .inl rfl, hsent.finish .transportFail 0⟩

end

/-! ## The register written -/

/-- WREN, then WRSR, at a device that is idle and not locked (43_device_commands.md R194, R197). -/
theorem Device.transaction_wren_wrsr {par : Config.Params} {d : Device} (hidle : d.wipMs = 0)
    (hopen : ¬ (d.wpen = true ∧ par.wpN = false)) (k k' : Nat) (v : BitVec 8) :
    (d.transaction par k wrenBytes true 0).transaction par k' (wrsrBytes v) true 0 =
      { d.closed false with
        wpen := v.getLsbD 7, bp1 := v.getLsbD 3, bp0 := v.getLsbD 2, wel := false, wipMs := par.tWcDevice } := by
  have hunlocked : ∀ w, Device.statusLocked par { d.closed false with wel := w } = false := fun w => by
    cases hwpen : d.wpen <;> cases hpin : par.wpN <;> simp_all [Device.statusLocked, Device.closed]
  rw [wrenBytes, wrsrBytes, Device.transaction_wren, if_pos hidle, Device.transaction_wrsr, Device.doWrsr, if_neg, if_neg,
    if_neg (by rw [hunlocked]; decide)]
  · rfl
  · exact Bool.noConfusion
  · simp [Device.closed, hidle]

/-- The state in which WRITE_STATUS posts OK. -/
def State.statusWritten (bus : BitVec 8) (addr len : BitVec 16) (value : BitVec 8) (s : State) : State :=
  ((s.started opWriteStatus .wsEnSel bus addr len value).sendStatus.delay Config.statusWriteMs).finish .ok 0

section
variable {s : State} {bus : BitVec 8} (addr len : BitVec 16) (value : BitVec 8) {d : Device} {rest : List Bool}

/-- A WRITE_STATUS whose two exchanges succeed posts OK. -/
theorem execWriteStatus_statusWritten (hr : s.resetIn = none) (hb : bus.toNat < s.numBuses)
    (htx : s.txAnswers = true :: true :: rest) :
    execWriteStatus bus addr len value s = .next (s.statusWritten bus addr len value) := by
  have hsent : ((s.started opWriteStatus .wsEnSel bus addr len value).sendFrame wrenBytes).nextTx = true :=
    State.nextTx_cons (rest := rest) (congrArg List.tail htx)
  rw [execWriteStatus_sendStatus addr len value hr hb, if_pos hsent]
  rfl

/-- The device after a WRITE_STATUS whose exchanges succeed, idle and not locked before it. -/
theorem State.statusWritten_device (hd : s.device bus = some d) (hidle : d.wipMs = 0)
    (hopen : ¬ (d.wpen = true ∧ s.par.wpN = false)) (htx : s.txAnswers = true :: true :: rest) :
    (s.statusWritten bus addr len value).device bus = some { d.closed false with
      wpen := value.getLsbD 7, bp1 := value.getLsbD 3, bp0 := value.getLsbD 2, wel := false,
      wipMs := s.par.tWcDevice - 4 } := by
  obtain ⟨k, k', h⟩ := (s.started opWriteStatus .wsEnSel bus addr len value).sendStatus_device
  have hwren : (s.started opWriteStatus .wsEnSel bus addr len value).nextTx = true :=
    State.nextTx_cons (rest := true :: rest) htx
  have hwrsr : ((s.started opWriteStatus .wsEnSel bus addr len value).sendFrame wrenBytes).nextTx = true :=
    State.nextTx_cons (rest := rest) (congrArg List.tail htx)
  rw [hwren, hwrsr] at h
  have hsent := h.trans ((congrArg (Option.map _) hd).trans (congrArg some (Device.transaction_wren_wrsr hidle hopen k k' value)))
  rw [State.statusWritten, State.finish_device, State.delay_device]
  exact congrArg (Option.map (Device.passTime 4)) hsent

end

/-- The register just written, read when its write cycle is over (40_status_accessor.md R127). -/
theorem Device.statusByte_of_written {d : Device} {v : BitVec 8} (hwpen : d.wpen = v.getLsbD 7) (hbp1 : d.bp1 = v.getLsbD 3)
    (hbp0 : d.bp0 = v.getLsbD 2) (hwel : d.wel = false) (hidle : d.wipMs = 0) : d.statusByte = v &&& 0x8C#8 := by
  rw [Device.statusByte, hwpen, hbp1, hbp0, hwel, Device.wip_eq, hidle]
  exact statusBits_of_value v

/-! ## The statements -/

/-- Settles O22: the two transactions perform the first six events, and the answer of the second decides the rest. -/
theorem writeStatusRunsItsEvents : Obligations.WriteStatusRunsItsEvents := by
  unfold Obligations.WriteStatusRunsItsEvents
  intro s bus addr len value w f rest hr hb htx
  have hwren : (s.started opWriteStatus .wsEnSel bus addr len value).nextTx = w :=
    State.nextTx_cons (rest := f :: rest) htx
  have hwrsr : ((s.started opWriteStatus .wsEnSel bus addr len value).sendFrame wrenBytes).nextTx = f :=
    State.nextTx_cons (rest := rest) (congrArg List.tail htx)
  have htrace := (s.started opWriteStatus .wsEnSel bus addr len value).sendStatus_trace
  rw [hwren, hwrsr] at htrace
  refine ⟨_, execWriteStatus_sendStatus addr len value hr hb, ?_⟩
  rw [hwrsr]
  cases f with
  | true => exact ⟨congrArg (· ++ [Event.delay 4]) htrace, rfl, rfl, rfl, rfl⟩
  | false => exact ⟨htrace, rfl, rfl, rfl, rfl⟩

/-- Settles O23: the WREN transaction sets WEL, so the WRSR transaction writes the register, and 4 ms of its write cycle pass. -/
theorem writeStatusWritesTheRegister : Obligations.WriteStatusWritesTheRegister := by
  unfold Obligations.WriteStatusWritesTheRegister
  intro s bus addr len value d rest hr hd hidle hopen htx
  exact ⟨_, execWriteStatus_statusWritten addr len value hr (State.lt_of_device hd) htx, ⟨rfl, rfl, rfl, rfl⟩,
    State.statusWritten_device addr len value hd hidle hopen htx⟩

/-- Settles O25: neither a WREN nor a WRSR frame stores a byte, failed or not, and what follows them is a delay at most. -/
theorem writeStatusFrame : Obligations.WriteStatusFrame := by
  unfold Obligations.WriteStatusFrame
  intro s t bus addr len value hr hb h
  obtain ⟨ms, hms, hbytes, hothers, hreleased, ⟨hsurroundings, hsplitter, hlatched⟩, hdst, hrx⟩ :=
    execWriteStatus_afterStatusWrite hr hb h
  exact ⟨hbytes, fun b d hne hd => ⟨ms, hms, (hothers b hne).trans (congrArg (Option.map (Device.passTime ms)) hd)⟩,
    hreleased, hsurroundings, hsplitter, hdst, hrx, State.latched_iff.2 hlatched⟩

/-- Settles O26: WRITE_STATUS leaves the bits of `v` in the register and its write cycle over, and READ_STATUS returns the
register. -/
theorem statusRoundTrip : Obligations.StatusRoundTrip := by
  unfold Obligations.StatusRoundTrip
  intro s bus addr len addr' len' v v' d txs c rxs hr hd hidle hopen hcycle htx hrx
  have hwritten := State.statusWritten_device addr len v hd hidle hopen htx
  have hnext : (s.statusWritten bus addr len v).nextTx = true :=
    State.nextTx_cons (rest := txs) (congrArg (fun l => l.tail.tail) htx)
  obtain ⟨u, hread, -, -, hstatus, hvalue⟩ :=
    execReadStatus_statusByte (s := s.statusWritten bus addr len v) addr' len' v' (c := c) (rest := rxs) hr hwritten hnext hrx
  refine ⟨_, u, execWriteStatus_statusWritten addr len v hr (State.lt_of_device hd) htx, hread, hstatus, ?_⟩
  rw [hvalue]
  exact Device.statusByte_of_written rfl rfl rfl rfl (Nat.sub_eq_zero_of_le hcycle)

end Sys2Proof.Machine
end

section
/-! SUPPORT. Every request runs the lines of its own descriptor: each frame they send is sound, and a reset only cuts them
short. -/

namespace Sys2Proof.Machine

/-- A host operation runs the request of its own descriptor (60_exceptions.md R243). -/
theorem exec_request_eq {i : Instr} (hi : isRequest i = true) : ∃ d, ∀ s, exec i s = runRequest d s := by
  cases i with
  | write | read | readByte | readStatus | writeStatus => exact ⟨_, fun _ => rfl⟩
  | _ => cases hi

/-! ## The frames of a request -/

/-- The planned chunk ends in the page it begins in, wherever a label reads the plan (41_page_write.md R142, R152). -/
def State.PlanInPage (s : State) : Prop := s.phase.readsPlan = true → s.chunkLen ≤ pageRemaining s.curAddr.toNat

/-- DECODE leads to no label that reads a plan: a WRITE is planned first (41_page_write.md R147). -/
theorem lineDecode_planInPage {s t : State} (h : lineDecode s = .next t) : t.PlanInPage := by
  unfold lineDecode at h
  repeat' split at h
  all_goals cases h
  · exact nofun
  · exact nofun
  · exact nofun
  · unfold State.startOperation
    repeat' split
    all_goals exact nofun

/-- Only W_PLAN writes the plan, and the lines that read it leave it as it was. -/
theorem line_planInPage {s t : State} (h : s.PlanInPage) (ht : line s = .next t) : t.PlanInPage := by
  unfold line at ht
  cases hp : s.phase <;> simp only [hp] at ht
  case decode => exact lineDecode_planInPage ht
  case wTx =>
    obtain ⟨-, rfl⟩ := lineWTx_next ht
    exact fun _ => h (by rw [hp]; rfl)
  case rData =>
    unfold lineRData at ht
    split at ht
    · cases ht
      exact nofun
    · obtain ⟨k, dst, -, rfl⟩ := lineRDataRun_next ht
      exact nofun
  all_goals cases ht
  case idle => exact h
  case wPlan => exact fun _ => chunkLength_le_page _ _
  case wEnSel | wEnTx | wEnDesel | wSel => exact fun _ => h (by rw [hp]; rfl)
  case wDesel =>
    unfold lineWDesel
    split
    · exact fun _ => h (by rw [hp]; rfl)
    · exact nofun
  case wDelay =>
    unfold lineWDelay
    split <;> exact nofun
  case rDesel =>
    unfold lineRDesel
    repeat' split
    all_goals exact nofun
  case sDesel =>
    unfold lineSDesel
    split <;> exact nofun
  case wsDesel =>
    unfold lineWsDesel
    split <;> exact nofun
  all_goals exact nofun

/-- A WRITE frame carries the planned chunk, or fewer bytes where SRC ends; every other frame is fixed by its label. -/
theorem labelEvents_frameSound {s : State} (h : s.PlanInPage) {b : BitVec 8} {bytes : List (BitVec 8)} {ok : Bool}
    (hmem : .tx b bytes ok ∈ labelEvents s) : FrameSound bytes := by
  unfold labelEvents at hmem
  cases hp : s.phase <;> simp [hp] at hmem <;> obtain ⟨-, rfl, -⟩ := hmem
  case wTx =>
    refine frameSound_write (data := s.chunkData) ((List.length_take_le _ _).trans (h ?_))
    rw [hp]
    rfl
  case wEnTx | wsEnTx => exact frameSound_wren
  case rCmd => exact frameSound_read _
  case sCmd => exact frameSound_rdsr
  case wsTx => exact frameSound_wrsr _

/-- Every frame on the trace is sound, and so is the one planned next. -/
def State.SendsSound (s : State) : Prop := FramesSound s.trace ∧ s.PlanInPage

theorem line_sendsSound {s t : State} (h : s.SendsSound) (ht : line s = .next t) : t.SendsSound := by
  obtain ⟨htrace, hplan⟩ := h
  refine ⟨fun b bytes ok hmem => ?_, line_planInPage hplan ht⟩
  rw [(line_eventsAs ht).trace, State.labelEvent_trace] at hmem
  exact (List.mem_append.1 hmem).elim (htrace b bytes ok) (labelEvents_frameSound hplan)

/-- A reset adds no event to the trace and leads to IDLE (70_reset_and_hazards.md R261). -/
theorem State.SendsSound.platformReset {s : State} (h : s.SendsSound) : s.platformReset.SendsSound := ⟨h.1, nofun⟩

theorem tick_sendsSound {s t : State} (h : s.SendsSound) (ht : tick s = .next t) : t.SendsSound :=
  tick_keeps (fun _ _ hs => hs) (fun _ _ hs => line_sendsSound hs) (fun _ hs => hs.platformReset) h ht

/-- Settles O36: acceptance empties the trace, and every line and every reset keeps its frames sound. -/
theorem requestsSendOnlySoundFrames : Obligations.RequestsSendOnlySoundFrames := by
  unfold Obligations.RequestsSendOnlySoundFrames
  intro i s t hi h
  obtain ⟨d, hd⟩ := exec_request_eq hi
  have hstart : (s.accept d).SendsSound := ⟨fun _ _ _ hmem => (by cases hmem), nofun⟩
  exact (runRequest_keeps (fun _ _ hs _ => tick_sendsSound hs) hstart (hd s ▸ h)).1

/-! ## A reset cuts a request short -/

/-- The state with its coming reset set to `r` (70_reset_and_hazards.md R261; log entry 20). -/
def State.withReset (r : Option Nat) (s : State) : State := { s with resetIn := r }

theorem lineDecode_withReset (r : Option Nat) (s : State) :
    lineDecode (s.withReset r) = mapNext (State.withReset r) (lineDecode s) := by
  have hstart : (s.withReset r).startOperation = s.startOperation.withReset r := by
    unfold State.startOperation
    rw [show (s.withReset r).reqOp = s.reqOp from rfl]
    repeat' split
    all_goals rfl
  unfold lineDecode
  rw [hstart, show (s.withReset r).descriptorOk = s.descriptorOk from rfl, show (s.withReset r).busOk = s.busOk from rfl,
    show (s.withReset r).boundsOk = s.boundsOk from rfl, show (s.withReset r).bufferFault = s.bufferFault from rfl]
  repeat' split
  all_goals rfl

theorem lineWTx_withReset (r : Option Nat) (s : State) :
    lineWTx (s.withReset r) = mapNext (State.withReset r) (lineWTx s) := by
  unfold lineWTx
  rw [show sliceBytes (s.withReset r).src (s.withReset r).curOff.toNat (s.withReset r).chunkLen =
    sliceBytes s.src s.curOff.toNat s.chunkLen from rfl]
  split <;> rfl

theorem lineRData_withReset (r : Option Nat) (s : State) :
    lineRData (s.withReset r) = mapNext (State.withReset r) (lineRData s) := by
  unfold lineRData
  rw [show (s.withReset r).reqOp = s.reqOp from rfl]
  split
  · rfl
  · cases hdst : storeBytes s.dst s.runBytes with
    | none => rw [lineRDataRun_overrun hdst, lineRDataRun_overrun (s := s.withReset r) hdst]; rfl
    | some dst => rw [lineRDataRun_stored hdst, lineRDataRun_stored (s := s.withReset r) hdst]; rfl

/-- No line looks at a coming reset. -/
theorem line_withReset (r : Option Nat) (s : State) : line (s.withReset r) = mapNext (State.withReset r) (line s) := by
  have hphase : (s.withReset r).phase = s.phase := rfl
  have hok : (s.withReset r).xferOk = s.xferOk := rfl
  unfold line
  rw [hphase]
  cases s.phase <;> dsimp only
  case decode => exact lineDecode_withReset r s
  case wTx => exact lineWTx_withReset r s
  case rData => exact lineRData_withReset r s
  case wDesel =>
    unfold lineWDesel
    rw [hok]
    split <;> rfl
  case wDelay =>
    unfold lineWDelay
    rw [show (s.withReset r).chunkLen = s.chunkLen from rfl, show (s.withReset r).remLen = s.remLen from rfl]
    split <;> rfl
  case rDesel =>
    unfold lineRDesel
    rw [hok, show (s.withReset r).par = s.par from rfl]
    repeat' split
    all_goals rfl
  case sDesel =>
    unfold lineSDesel
    rw [hok]
    split <;> rfl
  case wsDesel =>
    unfold lineWsDesel
    rw [hok]
    split <;> rfl
  all_goals rfl

/-- A tick is a reset, or the line that runs without a coming reset, but for the countdown. -/
theorem tick_reset_or_line {s t : State} (h : tick s = .next t) :
    t = s.platformReset ∨ line (s.withReset none) = .next (t.withReset none) := by
  have hline : ∀ r, line (s.withReset r) = .next t → line (s.withReset none) = .next (t.withReset none) := fun r hr => by
    rw [show s.withReset none = (s.withReset r).withReset none from rfl, line_withReset none, hr]
    rfl
  unfold tick at h
  split at h
  · exact .inr (hline s.resetIn h)
  · exact .inl (Host.Outcome.next.inj h).symm
  · exact .inr (hline _ h)

/-- A run that ends in IDLE without a reset ends there with one too. -/
theorem runLines_idle_of_withReset : ∀ (n : Nat) {s t : State},
    (∀ u, runLines n (s.withReset none) = .next u → u.phase = .idle) → runLines n s = .next t → t.phase = .idle := by
  intro n
  induction n with
  | zero =>
    intro s t hend h
    exact Host.Outcome.next.inj h ▸ hend (s.withReset none) rfl
  | succ n ih =>
    intro s t hend h
    by_cases hp : s.phase = .idle
    · rw [runLines_idle hp] at h
      exact Host.Outcome.next.inj h ▸ hp
    · obtain ⟨u, hu, hrun⟩ := runLines_succ_next hp h
      obtain rfl | hline := tick_reset_or_line hu
      · rw [runLines_idle rfl] at hrun
        exact Host.Outcome.next.inj hrun ▸ rfl
      · rw [runLines_tick (s := s.withReset none) hp ((tick_of_noReset rfl).trans hline)] at hend
        exact ih hend hrun

/-- Settles O10: the request ends in IDLE when no reset falls into it, and a reset leads there. -/
theorem everyRequestReturnsToIdle : Obligations.EveryRequestReturnsToIdle := by
  unfold Obligations.EveryRequestReturnsToIdle
  intro i s t hi h
  obtain ⟨d, hd⟩ := exec_request_eq hi
  rw [hd] at h
  refine runLines_idle_of_withReset _ (fun u hu => ?_) h
  exact exec_request_phase (s := s.withReset none) hi rfl ((hd _).trans hu)

end Sys2Proof.Machine
end

section
/-! SUPPORT. A WRITE in progress: what its lines keep, where its splitter stands, and the events its chunks add to the trace
(41_page_write.md R140 to R147). -/

namespace Sys2Proof.Machine

/-! ## W_PLAN -/

/-- `page_remaining` is PAGE_SIZE at a page's first byte alone and 1 at its last alone (41_page_write.md R141). -/
theorem pageRemaining_eq_ends (a : Nat) :
    (pageRemaining a = 16 ↔ a % 16 = 0) ∧ (pageRemaining a = 1 ↔ a % 16 = 15) := by
  simp only [pageRemaining, Config.pageSize]
  omega

/-- Settles O33: W_PLAN is one line, which writes PAGE_REM, CHUNK_LEN and PHASE. -/
theorem planComputesTheChunk : Obligations.PlanComputesTheChunk := by
  unfold Obligations.PlanComputesTheChunk
  intro s hp hr
  have hstep : step s = .next (lineWPlan s) := by
    rw [step_busy (by rw [hp]; decide), tick_of_noReset hr, line_wPlan hp]
  obtain ⟨hlow, hhigh⟩ := pageRemaining_bounds s.curAddr.toNat
  obtain ⟨hfirst, hlast⟩ := pageRemaining_eq_ends s.curAddr.toNat
  have hpage : s.curAddr.toNat % 16 + chunkLength s.curAddr.toNat s.remLen.toNat ≤ 16 := by
    have := chunkLength_le_page s.curAddr.toNat s.remLen.toNat
    simp only [pageRemaining, Config.pageSize] at this
    omega
  exact ⟨_, hstep, rfl, hlow, hhigh, hfirst, hlast, rfl, hpage, rfl, rfl⟩

/-! ## What the lines of a WRITE keep, and where its splitter stands -/

/-- What no line of a WRITE writes: the surroundings, the latched request, DST and RX_BYTE. -/
def State.WriteKept (s t : State) : Prop :=
  s.SurroundingsKept t ∧ t.latched = s.latched ∧ t.dst = s.dst ∧ t.rxByte = s.rxByte

/-- The WRITE of `len` bytes at `addr` begun at `s` stands at `u` between two chunks; a chunk of no bytes is its only one
(41_page_write.md R140, R153, R156). -/
structure State.Writing (bus : BitVec 8) (addr len : BitVec 16) (value : BitVec 8) (s u : State) : Prop where
  kept    : (s.startedWrite bus addr len value).WriteKept u
  posted  : u.posted = s.posted
  address : u.curAddr.toNat = addr.toNat + u.curOff.toNat
  total   : u.curOff.toNat + u.remLen.toNat = len.toNat
  pending : 1 ≤ len.toNat → 1 ≤ u.remLen.toNat

section
variable {s u t : State} {bus : BitVec 8} {addr len : BitVec 16} {value : BitVec 8}

theorem State.Writing.reqBus (h : s.Writing bus addr len value u) : u.reqBus = bus :=
  congrArg Descriptor.bus h.kept.2.1

theorem State.Writing.par (h : s.Writing bus addr len value u) : u.par = s.par := by
  obtain ⟨⟨-, hpar, -⟩, -⟩ := h.kept
  exact hpar

theorem State.Writing.src (h : s.Writing bus addr len value u) : u.src = s.src := by
  obtain ⟨⟨hsrc, -⟩, -⟩ := h.kept
  exact hsrc

theorem State.startedWrite_writing : s.Writing bus addr len value (s.startedWrite bus addr len value) where
  kept := ⟨⟨rfl, rfl, rfl, rfl, rfl, rfl, rfl⟩, rfl, rfl, rfl⟩
  posted := rfl
  address := rfl
  total := by simp [State.startedWrite, requestFields]
  pending := id

theorem State.Writing.nextPlan (h : s.Writing bus addr len value u) (hend : addr.toNat + len.toNat ≤ 65536) (hu : u.AtPlan)
    (hn : u.nextLen ≠ u.remLen.toNat) : s.Writing bus addr len value u.nextPlan := by
  obtain ⟨hkept, hposted, haddr, htotal, -⟩ := h
  obtain ⟨-, hlt⟩ := State.nextLen_lt hn
  obtain ⟨hoff, hrem, -, hcur⟩ := State.nextPlan_sums hu hn
  have hcur := hcur (by omega)
  exact ⟨hkept, u.nextPlan_posted.trans hposted, by omega, by omega, fun _ => by omega⟩

/-- The principle of `execWrite_loop` for a range that ends in the address space, with the splitter's place known at every
plan. -/
theorem execWrite_loop_writing {P Q : State → Prop} (value : BitVec 8) (hr : s.resetIn = none)
    (ha : s.Accepts bus addr.toNat len.toNat) (hl : len.toNat ≤ s.src.length) (hend : addr.toNat + len.toNat ≤ 65536)
    (hfail : ∀ u, u.AtPlan → s.Writing bus addr len value u → P u → u.nextSent = false →
      Q ((u.sendChunk u.nextData).raise .transportFail))
    (hlast : ∀ u, u.AtPlan → s.Writing bus addr len value u → P u → u.nextSent = true → u.nextLen = u.remLen.toNat →
      Q (u.chunkDone.finish .ok 0))
    (hnext : ∀ u, u.AtPlan → s.Writing bus addr len value u → P u → u.nextSent = true → u.nextLen ≠ u.remLen.toNat →
      P u.nextPlan)
    (hstart : P (s.startedWrite bus addr len value)) : ∃ t, exec (.write bus addr len value) s = .next t ∧ Q t :=
  execWrite_loop (P := fun u => s.Writing bus addr len value u ∧ P u) value hr ha hl
    (fun u hu hp => hfail u hu hp.1 hp.2) (fun u hu hp => hlast u hu hp.1 hp.2)
    (fun u hu hp hs hn => ⟨hp.1.nextPlan hend hu hn, hnext u hu hp.1 hp.2 hs hn⟩) ⟨State.startedWrite_writing, hstart⟩

end

/-- A failed WRITE frame ends the request (41_page_write.md R150). -/
theorem State.finished_failed {s u : State} (h : u.posted = s.posted) (data : List (BitVec 8)) :
    s.Finished ((u.sendChunk data).raise .transportFail) .transportFail 0 :=
  ⟨rfl, congrArg (· + 1) h, rfl, rfl⟩

/-- The last chunk ends the request (41_page_write.md R147). -/
theorem State.finished_done {s u : State} (h : u.posted = s.posted) : s.Finished (u.chunkDone.finish .ok 0) .ok 0 :=
  ⟨rfl, congrArg (· + 1) h, rfl, rfl⟩

/-- Settles O32: each chunk ends the request with a result or leads to the next plan, and the line budget holds all chunks. -/
theorem writeRunsToAResult : Obligations.WriteRunsToAResult := by
  unfold Obligations.WriteRunsToAResult
  intro s bus addr len value hr ha hl
  exact execWrite_loop (P := fun u => u.posted = s.posted) value hr ha hl
    (fun u _ hp _ => .inr (State.finished_failed hp u.nextData)) (fun _ _ hp _ _ => .inl (State.finished_done hp))
    (fun u _ hp _ _ => u.nextPlan_posted.trans hp) rfl

/-! ## The events of a WRITE -/

/-- The same chunk of a buffer that has `k` bytes more in front. -/
def Chunk.shift (k : Nat) (c : Chunk) : Chunk := { c with off := c.off + k }

/-- Chunks shifted by `k` carry of a buffer what they carry, unshifted, of the buffer without its first `k` bytes. -/
theorem writeEvents_shift (b : BitVec 8) (src : List (BitVec 8)) (k : Nat) : ∀ (cs : List Chunk) (script : List Bool),
    writeEvents b src (cs.map (Chunk.shift k)) script = writeEvents b (src.drop k) cs script := by
  have hevents : ∀ c w f, chunkEvents b src (Chunk.shift k c) w f = chunkEvents b (src.drop k) c w f := fun c w f => by
    simp only [chunkEvents, Chunk.shift, List.drop_drop, Nat.add_comm k]
  intro cs
  induction cs with
  | nil => exact fun _ => rfl
  | cons c cs ih =>
    intro script
    match script with
    | [] => rfl
    | [_] => rfl
    | w :: f :: script =>
      rw [List.map_cons, writeEvents, writeEvents, hevents, hevents, ih]

section
variable {u : State}

/-- The events and the success of the WRITE in progress at `u`, from its next chunk on, under a script of answers. -/
def State.comingEvents (script : List Bool) (u : State) : List Event × Bool :=
  writeEvents u.reqBus (u.src.drop u.curOff.toNat) (writeChunks u.curAddr.toNat u.remLen.toNat) script

/-- The chunk planned next, as the first of the closed form's chunks (41_page_write.md R146). -/
def State.nextChunk (u : State) : Chunk := { addr := u.curAddr.toNat, off := 0, len := u.nextLen }

/-- A chunk adds its six events to the trace, before the delay (41_page_write.md R147). -/
theorem State.sendChunk_nextData_trace {w f : Bool} {rest : List Bool} (h : u.txAnswers = w :: f :: rest) :
    (u.sendChunk u.nextData).trace ++ (if f then [.delay 4] else []) =
      u.trace ++ chunkEvents u.reqBus (u.src.drop u.curOff.toNat) u.nextChunk w f := by
  rw [u.sendChunk_trace, State.nextTx_cons h, State.nextSent_cons h]
  simp [chunkEvents, State.nextChunk, State.nextData, wrenBytes, writeBytes]

theorem chunkLength_eq_min (a r : Nat) : chunkLength a r = min r (pageRemaining a) := by
  unfold chunkLength
  split
  · exact (Nat.min_eq_right (by omega)).symm
  · exact (Nat.min_eq_left (by omega)).symm

theorem State.comingChunks_cons (u : State) : ∃ cs, writeChunks u.curAddr.toNat u.remLen.toNat = u.nextChunk :: cs := by
  obtain ⟨n, hn⟩ := Nat.exists_eq_add_of_le' (chunkCount_pos u.curAddr.toNat u.remLen.toNat)
  have hfirst : chunkAt u.curAddr.toNat u.remLen.toNat 0 = u.nextChunk := by
    rw [State.nextChunk, State.nextLen, chunkLength_eq_min]
    rfl
  rw [writeChunks, hn, List.range_succ_eq_map, List.map_cons, hfirst]
  exact ⟨_, rfl⟩

theorem State.comingChunks_last (h : u.nextLen = u.remLen.toNat) :
    writeChunks u.curAddr.toNat u.remLen.toNat = [u.nextChunk] := by
  have hpage := chunkLength_le_page u.curAddr.toNat u.remLen.toNat
  rw [writeChunks_last (h ▸ hpage), State.nextChunk, h]

theorem State.comingChunks_next (hu : u.AtPlan) (hin : u.curAddr.toNat + u.remLen.toNat ≤ 65536)
    (hn : u.nextLen ≠ u.remLen.toNat) : writeChunks u.curAddr.toNat u.remLen.toNat =
      u.nextChunk :: (writeChunks u.nextPlan.curAddr.toNat u.nextPlan.remLen.toNat).map (Chunk.shift u.nextLen) := by
  obtain ⟨hpage, hlt⟩ := State.nextLen_lt hn
  obtain ⟨-, hrem, -, hcur⟩ := State.nextPlan_sums hu hn
  rw [writeChunks_next (hpage ▸ hlt), ← hpage, hcur hin, ← hrem, Nat.add_sub_cancel]
  rfl

/-- The events of the chunk planned next, its exchanges answered `w` and `f`. -/
def State.nextEvents (w f : Bool) (u : State) : List Event :=
  chunkEvents u.reqBus (u.src.drop u.curOff.toNat) u.nextChunk w f

theorem State.comingEvents_failed (w : Bool) (script : List Bool) :
    u.comingEvents (w :: false :: script) = (u.nextEvents w false, false) := by
  obtain ⟨cs, hcs⟩ := u.comingChunks_cons
  rw [State.comingEvents, hcs]
  rfl

theorem State.comingEvents_last (h : u.nextLen = u.remLen.toNat) (w : Bool) (script : List Bool) :
    u.comingEvents (w :: true :: script) = (u.nextEvents w true, true) := by
  rw [State.comingEvents, State.comingChunks_last h]
  exact congrArg (·, true) (List.append_nil _)

theorem State.comingEvents_next (hu : u.AtPlan) (hin : u.curAddr.toNat + u.remLen.toNat ≤ 65536)
    (hn : u.nextLen ≠ u.remLen.toNat) (w : Bool) (script : List Bool) : u.comingEvents (w :: true :: script) =
      (u.nextEvents w true ++ (u.nextPlan.comingEvents script).1, (u.nextPlan.comingEvents script).2) := by
  obtain ⟨hoff, -⟩ := State.nextPlan_sums hu hn
  have htail : u.nextPlan.comingEvents script = writeEvents u.reqBus (u.src.drop u.curOff.toNat)
      ((writeChunks u.nextPlan.curAddr.toNat u.nextPlan.remLen.toNat).map (Chunk.shift u.nextLen)) script := by
    rw [writeEvents_shift, List.drop_drop, ← hoff]
    rfl
  rw [htail, State.comingEvents, State.comingChunks_next hu hin hn]
  rfl

/-- With the answers `script` to come for its chunks, and `rest` behind them, the WRITE in progress at `u` will have performed
the events `ends.1` when it ends, and succeeded exactly when `ends.2`. -/
structure State.EndsWith (script rest : List Bool) (ends : List Event × Bool) (u : State) : Prop where
  answers : u.txAnswers = script ++ rest
  enough  : script.length = 2 * chunkCount u.curAddr.toNat u.remLen.toNat
  events  : (u.trace ++ (u.comingEvents script).1, (u.comingEvents script).2) = ends

section
variable {script rest : List Bool} {ends : List Event × Bool}

/-- The two answers of the next chunk (41_page_write.md R147). -/
theorem State.EndsWith.split (h : u.EndsWith script rest ends) : ∃ w more, script = w :: u.nextSent :: more ∧
    u.txAnswers = w :: u.nextSent :: (more ++ rest) ∧
    2 * (chunkCount u.curAddr.toNat u.remLen.toNat - 1) = more.length := by
  obtain ⟨htx, hlen, -⟩ := h
  have hpos := chunkCount_pos u.curAddr.toNat u.remLen.toNat
  match script with
  | [] => simp at hlen; omega
  | [_] => simp at hlen; omega
  | w :: f :: more =>
    obtain rfl : u.nextSent = f := State.nextSent_cons htx
    refine ⟨w, more, rfl, htx, ?_⟩
    simp only [List.length_cons] at hlen
    omega

theorem State.EndsWith.failed (h : u.EndsWith script rest ends) (hf : u.nextSent = false) :
    (u.sendChunk u.nextData).trace = ends.1 ∧ ends.2 = false := by
  obtain ⟨w, more, rfl, htx, -⟩ := h.split
  rw [hf] at h htx
  have htrace := State.sendChunk_nextData_trace htx
  rw [← h.events, State.comingEvents_failed]
  exact ⟨(List.append_nil _).symm.trans htrace, rfl⟩

theorem State.EndsWith.last (h : u.EndsWith script rest ends) (hs : u.nextSent = true) (hl : u.nextLen = u.remLen.toNat) :
    u.chunkDone.trace = ends.1 ∧ ends.2 = true := by
  obtain ⟨w, more, rfl, htx, -⟩ := h.split
  rw [hs] at h htx
  have htrace := State.sendChunk_nextData_trace htx
  rw [← h.events, State.comingEvents_last hl]
  exact ⟨htrace, rfl⟩

theorem State.EndsWith.nextPlan (h : u.EndsWith script rest ends) (hu : u.AtPlan)
    (hin : u.curAddr.toNat + u.remLen.toNat ≤ 65536) (hs : u.nextSent = true) (hn : u.nextLen ≠ u.remLen.toNat) :
    ∃ more, u.nextPlan.EndsWith more rest ends := by
  obtain ⟨w, more, rfl, htx, hmore⟩ := h.split
  have hcount := hu.chunkCount_nextPlan hn
  rw [hs] at h htx
  have htrace : u.nextPlan.trace = u.trace ++ u.nextEvents w true := State.sendChunk_nextData_trace htx
  refine ⟨more, by rw [State.nextPlan_txAnswers, htx]; rfl, by omega, ?_⟩
  rw [← h.events, State.comingEvents_next hu hin hn, htrace, List.append_assoc]

end

end

/-- The events and the result of a WRITE whose range ends in the address space. -/
theorem execWrite_events {s : State} {bus : BitVec 8} {addr len : BitVec 16} (value : BitVec 8) {script rest : List Bool}
    (hr : s.resetIn = none) (ha : s.Accepts bus addr.toNat len.toNat) (hl : len.toNat ≤ s.src.length)
    (hend : addr.toNat + len.toNat ≤ 65536) (htx : s.txAnswers = script ++ rest)
    (hscript : script.length = 2 * chunkCount addr.toNat len.toNat) :
    ∃ t, exec (.write bus addr len value) s = .next t ∧
      t.trace = (writeEvents bus s.src (writeChunks addr.toNat len.toNat) script).1 ∧
      s.Finished t (if (writeEvents bus s.src (writeChunks addr.toNat len.toNat) script).2 then .ok else .transportFail) 0 := by
  generalize hends : writeEvents bus s.src (writeChunks addr.toNat len.toNat) script = ends
  refine execWrite_loop_writing (P := fun u => ∃ script, u.EndsWith script rest ends)
    (Q := fun t => t.trace = ends.1 ∧ s.Finished t (if ends.2 then .ok else .transportFail) 0) value hr ha hl hend
    ?failed ?last ?next ?start
  case failed =>
    rintro u - hw ⟨script, h⟩ hf
    obtain ⟨htrace, hno⟩ := h.failed hf
    rw [hno]
    exact ⟨htrace, State.finished_failed hw.posted u.nextData⟩
  case last =>
    rintro u - hw ⟨script, h⟩ hs hlast
    obtain ⟨htrace, hyes⟩ := h.last hs hlast
    rw [hyes]
    exact ⟨htrace, State.finished_done hw.posted⟩
  case next =>
    rintro u hu hw ⟨script, h⟩ hs hn
    obtain ⟨-, -, haddr, htotal, -⟩ := hw
    exact h.nextPlan hu (by omega) hs hn
  case start =>
    exact ⟨script, htx, hscript, hends⟩

/-- Settles O34: chunk by chunk, the events performed and those of the closed form's chunks still to come stay the same. -/
theorem writeSendsItsChunks : Obligations.WriteSendsItsChunks := by
  unfold Obligations.WriteSendsItsChunks
  intro s bus addr len value script rest hl hr ha hsrc htx hscript
  exact execWrite_events value hr ha hsrc (ha.2.2.trans hl.2.1) htx hscript

/-- Settles O35: no bytes are one chunk of no bytes. -/
theorem zeroLengthWriteSendsOneEmptyFrame : Obligations.ZeroLengthWriteSendsOneEmptyFrame := by
  unfold Obligations.ZeroLengthWriteSendsOneEmptyFrame
  intro s bus addr value w rest hr ha htx
  obtain ⟨t, hexec, htrace, hfinished⟩ := execWrite_events (len := 0) (script := [w, true]) value hr ha (Nat.zero_le _)
    addr.isLt.le htx rfl
  have hchunks : writeChunks addr.toNat (0 : BitVec 16).toNat = [{ addr := addr.toNat, off := 0, len := 0 }] :=
    writeChunks_last (Nat.zero_le _)
  rw [hchunks] at htrace hfinished
  refine ⟨t, hexec, hfinished, htrace.trans ?_⟩
  simp [writeEvents, chunkEvents]

end Sys2Proof.Machine
end

section
/-! SUPPORT. What a WRITE leaves unchanged, whatever the transport answers: a chunk changes its own page at most, and with
successful exchanges its own bytes at most (41_page_write.md R152, 43_device_commands.md R199, R203). -/

namespace Sys2Proof.Machine

/-- From `d` to `e` no byte outside `S` has changed, and neither have WPEN, BP1 and BP0. -/
structure Device.ChangesOnly (S : Nat → Prop) (d e : Device) : Prop where
  bytes : ∀ x, ¬ S x → Memory.read e.mem x = Memory.read d.mem x
  wpen  : e.wpen = d.wpen
  bp1   : e.bp1 = d.bp1
  bp0   : e.bp0 = d.bp0

/-! ## A chunk at the device -/

section
variable {par : Config.Params} {S : Nat → Prop} {d e f : Device}

theorem Device.ChangesOnly.refl (S : Nat → Prop) (d : Device) : d.ChangesOnly S d := ⟨fun _ _ => rfl, rfl, rfl, rfl⟩

theorem Device.ChangesOnly.trans (h : d.ChangesOnly S e) (h' : e.ChangesOnly S f) : d.ChangesOnly S f :=
  ⟨fun x hx => (h'.bytes x hx).trans (h.bytes x hx), h'.wpen.trans h.wpen, h'.bp1.trans h.bp1, h'.bp0.trans h.bp0⟩

theorem Device.ChangesOnly.passTime (h : d.ChangesOnly S e) (ms : Nat) : d.ChangesOnly S (e.passTime ms) :=
  ⟨h.bytes, h.wpen, h.bp1, h.bp0⟩

theorem Device.ChangesOnly.closed (h : d.ChangesOnly S e) (taint : Bool) : d.ChangesOnly S (e.closed taint) :=
  ⟨h.bytes, h.wpen, h.bp1, h.bp0⟩

/-- What a frame that is being sent has changed, since before its Select. -/
theorem Device.ChangesOnly.of_sent {xs : List (BitVec 8)} {ok : Bool} {c : Nat}
    (h : { Device.onTx xs ok d.onSelect with readCount := c }.ChangesOnly S e) : d.ChangesOnly S e :=
  ⟨h.bytes, h.wpen, h.bp1, h.bp0⟩

/-- A WREN frame changes WEL at most, whether its exchange failed or not (43_device_commands.md R194, R203). -/
theorem Device.transaction_wren_changesOnly (k c : Nat) (ok : Bool) (d : Device) :
    d.ChangesOnly S (d.transaction par k wrenBytes ok c) := by
  cases ok with
  | true =>
    rw [wrenBytes, Device.transaction_wren]
    exact ⟨fun _ _ => rfl, rfl, rfl, rfl⟩
  | false =>
    rw [Device.transaction_garbled]
    exact ⟨fun _ _ => rfl, rfl, rfl, rfl⟩

/-- The WRITE command changes only what its page write does (43_device_commands.md R199). -/
theorem Device.doWrite_changesOnly (k : Nat) (a : BitVec 16) (data : List (BitVec 8))
    (h : ∀ x, ¬ S x → Memory.read (Memory.writePage d.mem (devicePageBase par a) (devicePageOffset par a) data) x =
      Memory.read d.mem x) : d.ChangesOnly S (d.doWrite par k a data) := by
  unfold Device.doWrite
  repeat' split
  case isFalse.isFalse.isFalse.isFalse => exact ⟨h, rfl, rfl, rfl⟩
  all_goals exact ⟨fun _ _ => rfl, rfl, rfl, rfl⟩

/-- A failed WRITE frame changes only what lies in its page (43_device_commands.md R203). -/
theorem Device.garbled_changesOnly {a : BitVec 16} {data : List (BitVec 8)} (k : Nat)
    (hd : decodeFrame d.frame = .instr (.writeFrame a data))
    (houtside : ∀ x, ¬ S x → x < devicePageBase par a ∨ devicePageBase par a + Config.pageSize ≤ x) :
    d.ChangesOnly S (d.garbled par k) := by
  refine ⟨fun x hx => Device.garbled_mem par k d x fun a' data' h => ?_, ?_, ?_, ?_⟩
  · obtain ⟨rfl, -⟩ : a = a' ∧ data = data' := by simpa using hd.symm.trans h
    exact houtside x hx
  all_goals rw [Device.garbled, hd]

/-- A WRITE frame changes bytes of its page at most, whether its exchange failed or not (43_device_commands.md R199, R203). -/
theorem Device.transaction_write_changesOnly_page (k c : Nat) (ok : Bool) (a : BitVec 16) (data : List (BitVec 8))
    (hS : ∀ x, devicePageBase par a ≤ x → x < devicePageBase par a + Config.pageSize → S x) :
    d.ChangesOnly S (d.transaction par k (writeBytes a data) ok c) := by
  have houtside : ∀ x, ¬ S x → x < devicePageBase par a ∨ devicePageBase par a + Config.pageSize ≤ x := fun x hx => by
    by_contra hin
    exact hx (hS x (by omega) (by omega))
  cases ok with
  | true =>
    rw [writeBytes, Device.transaction_write]
    exact (Device.doWrite_changesOnly k a data fun x hx => Memory.read_writePage_outside (houtside x hx) _ _ _).closed false
  | false =>
    rw [Device.transaction_garbled]
    exact ((Device.garbled_changesOnly k (decodeFrame_write a data) houtside).of_sent).closed true

/-- A WRITE frame that stays in its page and whose exchange succeeds changes bytes at its own addresses at most
(43_device_commands.md R199). -/
theorem Device.transaction_write_changesOnly_range (k c : Nat) (a : BitVec 16) (data : List (BitVec 8))
    (hpage : devicePageOffset par a + data.length ≤ Config.pageSize)
    (hS : ∀ i, i < data.length → S (devicePageBase par a + (devicePageOffset par a + i))) :
    d.ChangesOnly S (d.transaction par k (writeBytes a data) true c) := by
  rw [writeBytes, Device.transaction_write]
  refine (Device.doWrite_changesOnly k a data fun x hx => Memory.read_writePage_ne _ x data _ _ fun i hi heq => hx ?_).closed false
  rw [heq, Nat.mod_eq_of_lt (by omega)]
  exact hS i hi

end

/-! ## A chunk of the WRITE in progress -/

section
variable {S : Nat → Prop} {u : State} {d : Device}

/-- Whatever the transport answers, a chunk changes bytes of its page at most. -/
theorem State.sendChunk_changesOnly_page (hd : u.device u.reqBus = some d) (hin : u.curAddr.toNat < u.par.deviceSize)
    (hS : ∀ x, x / 16 = u.curAddr.toNat / 16 → S x) :
    ∃ e, (u.sendChunk u.nextData).device u.reqBus = some e ∧ d.ChangesOnly S e := by
  obtain ⟨k, k', hchunk⟩ := u.sendChunk_device u.nextData
  rw [hd] at hchunk
  refine ⟨_, hchunk, (d.transaction_wren_changesOnly k 0 u.nextTx).trans
    (Device.transaction_write_changesOnly_page k' 0 u.nextSent u.curAddr u.nextData fun x hlow hhigh => hS x ?_)⟩
  rw [(devicePage_of_lt hin).1] at hlow hhigh
  simp only [Config.pageSize] at hlow hhigh
  omega

/-- A chunk whose WRITE frame is not failed changes bytes at its own addresses at most. -/
theorem State.sendChunk_changesOnly_range (hd : u.device u.reqBus = some d) (hin : u.curAddr.toNat < u.par.deviceSize)
    (hsent : u.nextSent = true) (hS : ∀ x, u.curAddr.toNat ≤ x → x < u.curAddr.toNat + u.nextLen → S x) :
    ∃ e, (u.sendChunk u.nextData).device u.reqBus = some e ∧ d.ChangesOnly S e := by
  obtain ⟨k, k', hchunk⟩ := u.sendChunk_device u.nextData
  rw [hd, hsent] at hchunk
  obtain ⟨haddr, hpage⟩ := chunk_page (r := u.remLen.toNat) hin
  have hlen : u.nextData.length ≤ u.nextLen := List.length_take_le _ _
  exact ⟨_, hchunk, (d.transaction_wren_changesOnly k 0 u.nextTx).trans
    (Device.transaction_write_changesOnly_range k' 0 u.curAddr u.nextData ((Nat.add_le_add_left hlen _).trans hpage)
      fun i hi => hS _ (by omega) (by omega))⟩

end

/-! ## The buses in the course of a WRITE -/

/-- The buses at `u`, in the course of a WRITE on `bus` begun at `s`: its device has changed bytes of `S` at most, every other
device has had the delays of the trace pass, and no other line has moved. -/
structure State.BusesFramed (bus : BitVec 8) (S : Nat → Prop) (s u : State) : Prop where
  own    : ∀ d, s.device bus = some d → ∃ e, u.device bus = some e ∧ d.ChangesOnly S e
  others : ∀ b d, b ≠ bus → s.device b = some d →
    u.device b = some { d with wipMs := d.wipMs - 4 * u.trace.count (.delay 4) }
  lines  : ∀ b, b ≠ bus → u.chipSelect b = s.chipSelect b

section
variable {bus : BitVec 8} {S : Nat → Prop} {s u : State}

theorem State.BusesFramed.of_eq {t : State} (h : s.BusesFramed bus S u) (hb : t.buses = u.buses := by rfl)
    (ht : t.trace = u.trace := by rfl) : s.BusesFramed bus S t := by
  have hdevice : ∀ b, t.device b = u.device b := fun b => by rw [State.device, hb]; rfl
  have hline : ∀ b, t.chipSelect b = u.chipSelect b := fun b => by rw [State.chipSelect, hb]; rfl
  exact ⟨by simpa only [hdevice] using h.own, by simpa only [hdevice, ht] using h.others, by simpa only [hline] using h.lines⟩

theorem State.sendChunk_delays (u : State) (data : List (BitVec 8)) :
    (u.sendChunk data).trace.count (.delay 4) = u.trace.count (.delay 4) := by
  rw [u.sendChunk_trace, List.count_append]
  simp

theorem State.BusesFramed.sendChunk (h : s.BusesFramed bus S u) (hbus : u.reqBus = bus)
    (hin : u.curAddr.toNat < u.par.deviceSize) (hS : ∀ x, x / 16 = u.curAddr.toNat / 16 → S x) :
    s.BusesFramed bus S (u.sendChunk u.nextData) := by
  subst hbus
  refine ⟨fun d hd => ?_, fun b d hne hd => ?_, fun b hne => (u.sendChunk_chipSelect_ne _ hne).trans (h.lines b hne)⟩
  · obtain ⟨e, he, hkept⟩ := h.own d hd
    obtain ⟨f, hf, hchunk⟩ := State.sendChunk_changesOnly_page he hin hS
    exact ⟨f, hf, hkept.trans hchunk⟩
  · rw [u.sendChunk_device_ne _ hne, u.sendChunk_delays, h.others b d hne hd]

theorem State.BusesFramed.delay (h : s.BusesFramed bus S u) : s.BusesFramed bus S (u.delay Config.writeCycleMs) := by
  refine ⟨fun d hd => ?_, fun b d hne hd => ?_, fun b hne => (u.delay_chipSelect _ b).trans (h.lines b hne)⟩
  · obtain ⟨e, he, hkept⟩ := h.own d hd
    exact ⟨_, by rw [State.delay_device, he]; rfl, hkept.passTime _⟩
  · have hcount : (u.delay Config.writeCycleMs).trace.count (.delay 4) = u.trace.count (.delay 4) + 1 := by
      rw [State.delay_trace, List.count_append]
      rfl
    rw [State.delay_device, h.others b d hne hd, hcount, Nat.mul_add, ← Nat.sub_sub]
    rfl

theorem State.sendChunk_released (hbus : u.reqBus.toNat < u.numBuses) (data : List (BitVec 8)) :
    (u.sendChunk data).chipSelect u.reqBus = some false := by
  obtain ⟨v, hv⟩ := State.chipSelect_isSome hbus
  rw [u.sendChunk_chipSelect, hv]
  rfl

/-! ## The whole WRITE -/

/-- A request that DECODE stops with a fault answers no next state (60_exceptions.md R235). -/
theorem runRequest_fault {d : Descriptor} {f : Fault} (hr : s.resetIn = none) (h : lineDecode (s.accept d) = .fault f) :
    runRequest d s = .fault f := by
  obtain ⟨k, hk⟩ := (s.accept d).lineBudget_eq
  have htick : tick (s.accept d) = .fault f := by rw [tick_of_noReset (by exact hr), line_decode rfl, h]
  rw [runRequest, hk, runLines, if_neg (by simp), htick]

/-- A WRITE that ends without a fault had its bytes in SRC (60_exceptions.md R235). -/
theorem execWrite_src_fits {t : State} {addr len : BitVec 16} {value : BitVec 8} (hr : s.resetIn = none)
    (ha : s.Accepts bus addr.toNat len.toNat) (h : exec (.write bus addr len value) s = .next t) :
    len.toNat ≤ s.src.length := by
  by_contra hshort
  have hfault : (s.accept (requestFields opWrite bus addr len value)).bufferFault = some .sourceOverrun :=
    if_pos ⟨rfl, Nat.lt_of_not_le hshort⟩
  have hdecode := lineDecode_fault (s := s.accept (requestFields opWrite bus addr len value))
    (s.accept_descriptorOk bus addr len value (by decide)) (decide_eq_true ha.1) (decide_eq_true ha.2) hfault
  exact nomatch (runRequest_fault hr hdecode).symm.trans h

/-- The addresses of the pages that `len` bytes at `addr` touch, the page of `addr` when there are none. -/
def InTouchedPages (addr len x : Nat) : Prop := addr / 16 ≤ x / 16 ∧ x / 16 ≤ (addr + (len - 1)) / 16

/-- The page of the next chunk is one of those the WRITE touches. -/
theorem State.Writing.inTouchedPages {addr len : BitVec 16} {value : BitVec 8} (h : s.Writing bus addr len value u) {x : Nat}
    (hx : x / 16 = u.curAddr.toNat / 16) : InTouchedPages addr.toNat len.toNat x := by
  obtain ⟨-, -, haddr, htotal, hpending⟩ := h
  unfold InTouchedPages
  omega

/-- The next chunk begins in the array. -/
theorem State.Writing.in_array {addr len : BitVec 16} {value : BitVec 8} (h : s.Writing bus addr len value u)
    (ha : s.Accepts bus addr.toNat len.toNat) : u.curAddr.toNat < u.par.deviceSize := by
  have hpar := h.par
  obtain ⟨-, -, haddr, htotal, hpending⟩ := h
  obtain ⟨-, hstart, hfits⟩ := ha
  rw [hpar]
  omega

/-- What holds of the buses when a WRITE ends, however it ends. -/
theorem execWrite_framed {addr len : BitVec 16} (value : BitVec 8) (hl : s.par.Legal) (hr : s.resetIn = none)
    (ha : s.Accepts bus addr.toNat len.toNat) (hsrc : len.toNat ≤ s.src.length) :
    ∃ t, exec (.write bus addr len value) s = .next t ∧ s.BusesFramed bus (InTouchedPages addr.toNat len.toNat) t ∧
      t.chipSelect bus = some false ∧ (s.startedWrite bus addr len value).WriteKept t := by
  have hchunk : ∀ u, s.Writing bus addr len value u → s.BusesFramed bus (InTouchedPages addr.toNat len.toNat) u →
      s.BusesFramed bus (InTouchedPages addr.toNat len.toNat) (u.sendChunk u.nextData) ∧
      (u.sendChunk u.nextData).chipSelect bus = some false := fun u hw h => by
    obtain ⟨d, hd⟩ := State.device_isSome ha.1
    obtain ⟨e, he, -⟩ := h.own d hd
    have hreleased := State.sendChunk_released (u := u) (by rw [hw.reqBus]; exact State.lt_of_device he) u.nextData
    rw [hw.reqBus] at hreleased
    exact ⟨h.sendChunk hw.reqBus (hw.in_array ha) fun x => hw.inTouchedPages, hreleased⟩
  refine execWrite_loop_writing (P := s.BusesFramed bus (InTouchedPages addr.toNat len.toNat)) value hr ha hsrc
    (ha.2.2.trans hl.2.1) ?failed ?last ?next ?start
  case failed =>
    intro u _ hw h _
    obtain ⟨hframed, hreleased⟩ := hchunk u hw h
    exact ⟨hframed.of_eq, hreleased, hw.kept⟩
  case last =>
    intro u _ hw h _ _
    obtain ⟨hframed, hreleased⟩ := hchunk u hw h
    exact ⟨hframed.delay.of_eq, (State.delay_chipSelect _ _ _).trans hreleased, hw.kept⟩
  case next =>
    intro u _ hw h _ _
    exact (hchunk u hw h).1.delay.of_eq
  case start =>
    exact ⟨fun d hd => ⟨d, hd, .refl _ d⟩, fun b d _ hd => hd, fun b _ => rfl⟩

/-- A WRITE none of whose exchanges fails changes bytes at its own addresses at most. -/
theorem execWrite_changesOnly_range {addr len : BitVec 16} (value : BitVec 8) {d : Device} {rest : List Bool}
    (hl : s.par.Legal) (hr : s.resetIn = none) (ha : s.Accepts bus addr.toNat len.toNat) (hsrc : len.toNat ≤ s.src.length)
    (hd : s.device bus = some d) (htx : s.txAnswers = List.replicate (2 * chunkCount addr.toNat len.toNat) true ++ rest) :
    ∃ t, exec (.write bus addr len value) s = .next t ∧
      ∃ e, t.device bus = some e ∧ d.ChangesOnly (fun x => addr.toNat ≤ x ∧ x < addr.toNat + len.toNat) e := by
  generalize hS : (fun x => addr.toNat ≤ x ∧ x < addr.toNat + len.toNat) = S
  have hchunk : ∀ u, s.Writing bus addr len value u → u.AllSucceed rest →
      (∃ e, u.device bus = some e ∧ d.ChangesOnly S e) → ∃ e, u.chunkDone.device bus = some e ∧ d.ChangesOnly S e := by
    rintro u hw hall ⟨e, he, hkept⟩
    obtain rfl := hw.reqBus
    obtain ⟨f, hf, hsent⟩ := State.sendChunk_changesOnly_range he (hw.in_array ha) hall.nextSent (S := S) fun x hlow hhigh => by
      have hlen := u.nextLen_le
      obtain ⟨-, -, haddr, htotal, -⟩ := hw
      subst hS
      constructor <;> omega
    exact ⟨_, by rw [State.chunkDone, State.delay_device, hf]; rfl, (hkept.trans hsent).passTime _⟩
  refine execWrite_loop_writing (P := fun u => u.AllSucceed rest ∧ ∃ e, u.device bus = some e ∧ d.ChangesOnly S e) value hr ha
    hsrc (ha.2.2.trans hl.2.1) ?failed ?last ?next ?start
  case failed =>
    intro u _ _ h hfailed
    exact absurd (h.1.nextSent.symm.trans hfailed) (by decide)
  case last =>
    exact fun u _ hw h _ _ => hchunk u hw h.1 h.2
  case next =>
    exact fun u hu hw h _ hn => ⟨h.1.nextPlan hu hn, hchunk u hw h.1 h.2⟩
  case start =>
    exact ⟨htx, d, hd, .refl S d⟩

end

/-- Settles O39: each chunk changes bytes of its page at most, and with successful exchanges its own bytes at most; between
chunks only delays pass. -/
theorem writeFrame : Obligations.WriteFrame := by
  unfold Obligations.WriteFrame
  intro s t bus addr len value hl hr ha h
  have hsrc := execWrite_src_fits hr ha h
  obtain ⟨d, hd⟩ := State.device_isSome ha.1
  obtain ⟨t', h', ⟨hown, hothers, hlines⟩, hreleased, hsurroundings, hlatched, hdst, hrx⟩ :=
    execWrite_framed value hl hr ha hsrc
  obtain rfl : t' = t := Host.Outcome.next.inj (h'.symm.trans h)
  obtain ⟨e, he, hbytes, hwpen, hbp1, hbp0⟩ := hown d hd
  refine ⟨fun x hx => ?_, fun rest htx x hx => ?_, hothers, fun d' e' hd' he' => ?_, ⟨hreleased, hlines⟩, hsurroundings, hdst,
    hrx, State.latched_iff.2 hlatched⟩
  · rw [State.memByte_of_device he, State.memByte_of_device hd]
    exact hbytes x (by unfold InTouchedPages; omega)
  · obtain ⟨t'', h'', f, hf, hrange, -, -, -⟩ := execWrite_changesOnly_range value hl hr ha hsrc hd htx
    obtain rfl : t'' = t' := Host.Outcome.next.inj (h''.symm.trans h)
    rw [State.memByte_of_device hf, State.memByte_of_device hd]
    exact hrange x (by omega)
  · obtain rfl : d = d' := Option.some.inj (hd.symm.trans hd')
    obtain rfl : e = e' := Option.some.inj (he.symm.trans he')
    exact ⟨hwpen, hbp1, hbp0⟩

end Sys2Proof.Machine
end

section
/-! SUPPORT. A WRITE at an idle, fast enough device that protects none of its bytes: each chunk stores its bytes
(43_device_commands.md R199, R207). -/

namespace Sys2Proof.Machine

/-! ## A chunk at the device -/

section
variable {par : Config.Params} {d : Device} {a : BitVec 16} {data : List (BitVec 8)}

/-- The two transactions of a chunk at an idle device: WREN sets WEL, and a WRITE frame with data stores them and clears it
(43_device_commands.md R194, R199). -/
theorem Device.transaction_wren_write (k k' : Nat) (hidle : d.wipMs = 0)
    (hopen : data ≠ [] → d.protects par (devicePageBase par a) = false) :
    (d.transaction par k wrenBytes true 0).transaction par k' (writeBytes a data) true 0 =
      { d.closed false with
          mem := Memory.writePage d.mem (devicePageBase par a) (devicePageOffset par a) data
          wel := decide (data = [])
          wipMs := if data = [] then 0 else par.tWcDevice } := by
  rw [wrenBytes, writeBytes, Device.transaction_wren, if_pos hidle, Device.transaction_write, Device.doWrite,
    if_neg (by simp [Device.closed, hidle]), if_neg Bool.noConfusion]
  by_cases hdata : data = []
  · rw [if_pos hdata, if_pos hdata, hdata, ← hidle]
    rfl
  · rw [if_neg hdata, if_neg hdata, if_neg (by exact Bool.eq_false_iff.1 (hopen hdata)), decide_eq_false hdata]
    rfl

end

/-- From the idle device `d` to the idle device `e` exactly the bytes `xs` have been stored, at `A` on. -/
structure Device.Stored (A : Nat) (xs : List (BitVec 8)) (d e : Device) : Prop where
  wf    : Memory.wf e.mem
  idle  : e.wipMs = 0
  bp1   : e.bp1 = d.bp1
  bp0   : e.bp0 = d.bp0
  bytes : ∀ x, Memory.read e.mem x = if A ≤ x ∧ x < A + xs.length then xs.getD (x - A) 0 else Memory.read d.mem x

section
variable {A : Nat} {xs ys : List (BitVec 8)} {d e f : Device}

theorem Device.Stored.nil (hwf : Memory.wf d.mem) (hidle : d.wipMs = 0) : d.Stored A [] d :=
  ⟨hwf, hidle, rfl, rfl, fun x => (if_neg (by simp)).symm⟩

/-- Runs stored one behind the other are one run. -/
theorem Device.Stored.append (h : d.Stored A xs e) (h' : e.Stored (A + xs.length) ys f) : d.Stored A (xs ++ ys) f := by
  refine ⟨h'.wf, h'.idle, h'.bp1.trans h.bp1, h'.bp0.trans h.bp0, fun x => ?_⟩
  rw [h'.bytes, h.bytes, List.length_append]
  by_cases hx : A + xs.length ≤ x ∧ x < A + xs.length + ys.length
  · rw [if_pos hx, if_pos (by omega), List.getD_append_right _ _ _ _ (by omega), Nat.sub_sub]
  · rw [if_neg hx]
    by_cases hx' : A ≤ x ∧ x < A + xs.length
    · rw [if_pos hx', if_pos (by omega), List.getD_append _ _ _ _ (by omega)]
    · rw [if_neg hx', if_neg (by omega)]

theorem Device.Stored.protects (h : d.Stored A xs e) (par : Config.Params) (x : Nat) : e.protects par x = d.protects par x := by
  rw [Device.protects, Device.protects, h.bp1, h.bp0]

end

/-! ## A chunk of the WRITE in progress -/

/-- A chunk whose exchanges succeed stores its bytes, at an idle device that does not protect its page, and its write cycle is
over after the delay (43_device_commands.md R205, R207). -/
theorem State.AtPlan.chunkDone_stored {u : State} {d : Device} (hu : u.AtPlan) (hd : u.device u.reqBus = some d)
    (hwf : Memory.wf d.mem) (hidle : d.wipMs = 0) (hin : u.curAddr.toNat < u.par.deviceSize)
    (hopen : 1 ≤ u.nextLen → d.protects u.par (u.curAddr.toNat - u.curAddr.toNat % 16) = false) (hfast : u.par.tWcDevice ≤ 4)
    (hwren : u.nextTx = true) (hsent : u.nextSent = true) :
    ∃ e, u.chunkDone.device u.reqBus = some e ∧ d.Stored u.curAddr.toNat u.nextData e ∧ (1 ≤ u.nextLen → e.wel = false) := by
  obtain ⟨k, k', hchunk⟩ := u.sendChunk_device u.nextData
  have hlen := State.length_nextData hu
  have hdata_iff : u.nextData ≠ [] ↔ 1 ≤ u.nextLen := by
    rw [← hlen]
    exact List.length_pos_iff.symm
  obtain ⟨haddr, hpage⟩ := chunk_page (r := u.remLen.toNat) hin
  rw [hd, hwren, hsent, Option.map_some, Device.transaction_wren_write k k' hidle fun hdata => by
    rw [(devicePage_of_lt hin).1]
    exact hopen (hdata_iff.1 hdata)] at hchunk
  have hdone := (u.sendChunk u.nextData).delay_device Config.writeCycleMs u.reqBus
  rw [hchunk] at hdone
  refine ⟨_, hdone, ⟨Memory.wf_writePage _ _ _ hwf, ?_, rfl, rfl, fun x => ?_⟩,
    fun hsome => decide_eq_false (hdata_iff.2 hsome)⟩
  · show (if u.nextData = [] then 0 else u.par.tWcDevice) - 4 = 0
    split <;> omega
  · rw [← haddr]
    exact Memory.read_writePage_inPage hwf (hlen ▸ hpage) x

/-! ## The whole WRITE -/

/-- The bytes of SRC before the next chunk, and those with it. -/
theorem State.take_nextData (u : State) :
    u.src.take (u.curOff.toNat + u.nextLen) = u.src.take u.curOff.toNat ++ u.nextData := List.take_add

section
variable {s u : State} {bus : BitVec 8} {addr len : BitVec 16} {value : BitVec 8} {d : Device} {rest : List Bool}

/-- The device on `bus` has stored the bytes of SRC before the next chunk. -/
def State.StoredSoFar (bus : BitVec 8) (addr : BitVec 16) (d : Device) (u : State) : Prop :=
  ∃ e, u.device bus = some e ∧ d.Stored addr.toNat (u.src.take u.curOff.toNat) e

/-- The next chunk of a WRITE stores its bytes behind those stored so far. -/
theorem State.StoredSoFar.chunkDone (h : u.StoredSoFar bus addr d) (hu : u.AtPlan) (hw : s.Writing bus addr len value u)
    (ha : s.Accepts bus addr.toNat len.toNat) (hall : u.AllSucceed rest) (hfast : s.par.tWcDevice ≤ 4)
    (hopen : ∀ a, addr.toNat ≤ a → a < addr.toNat + len.toNat → d.protects s.par a = false) :
    ∃ e, u.chunkDone.device bus = some e ∧ d.Stored addr.toNat (u.src.take (u.curOff.toNat + u.nextLen)) e ∧
      (1 ≤ u.nextLen → e.wel = false) := by
  obtain ⟨e, he, hstored⟩ := h
  obtain rfl := hw.reqBus
  have hpar := hw.par
  have hlen := u.nextLen_le
  have hsource := hu.source
  have hlength : (u.src.take u.curOff.toNat).length = u.curOff.toNat := by rw [List.length_take]; omega
  have hpage : 1 ≤ u.nextLen → e.protects u.par (u.curAddr.toNat - u.curAddr.toNat % 16) = false := fun hsome => by
    have hbyte := hopen u.curAddr.toNat (by rw [hw.address]; omega) (by rw [hw.address, ← hw.total]; omega)
    rw [hstored.protects, hpar]
    by_contra hprotected
    exact absurd (Device.protects_mono (Nat.sub_le _ _) (by simpa using hprotected)) (by rw [hbyte]; decide)
  obtain ⟨f, hf, hchunk, hwel⟩ := hu.chunkDone_stored he hstored.wf hstored.idle (hw.in_array ha) hpage (hpar ▸ hfast)
    hall.nextTx hall.nextSent
  refine ⟨f, hf, ?_, hwel⟩
  rw [u.take_nextData]
  exact hstored.append (by rw [hlength, ← hw.address]; exact hchunk)

end

/-- Settles O38: the chunks store the bytes of SRC one behind the other, each at a device whose last write cycle is over. -/
theorem writeStoresExactlyItsBytes : Obligations.WriteStoresExactlyItsBytes := by
  unfold Obligations.WriteStoresExactlyItsBytes
  intro s bus addr len value d rest hl hr ha hsrc hd hwf hidle hfast hopen htx
  have hloop : ∃ t, exec (.write bus addr len value) s = .next t ∧ s.Finished t .ok 0 ∧ ∃ e, t.device bus = some e ∧
      d.Stored addr.toNat (s.src.take len.toNat) e ∧ (1 ≤ len.toNat → e.wel = false) := by
    refine execWrite_loop_writing (P := fun u => u.AllSucceed rest ∧ u.StoredSoFar bus addr d) value hr ha hsrc
      (ha.2.2.trans hl.2.1) ?failed ?last ?next ?start
    case failed =>
      intro u _ _ h hfailed
      exact absurd (h.1.nextSent.symm.trans hfailed) (by decide)
    case last =>
      rintro u hu hw ⟨hall, hstored⟩ - hlast
      obtain ⟨e, he, hbytes, hwel⟩ := hstored.chunkDone hu hw ha hall hfast hopen
      rw [hlast, hw.total, hw.src] at hbytes
      exact ⟨State.finished_done hw.posted, e, he, hbytes, fun hsome => hwel (hlast ▸ hw.pending hsome)⟩
    case next =>
      rintro u hu hw ⟨hall, hstored⟩ - hn
      obtain ⟨e, he, hbytes, -⟩ := hstored.chunkDone hu hw ha hall hfast hopen
      obtain ⟨hoff, -⟩ := State.nextPlan_sums hu hn
      exact ⟨hall.nextPlan hu hn, e, he, by rw [hoff]; exact hbytes⟩
    case start =>
      exact ⟨htx, d, hd, .nil hwf hidle⟩
  obtain ⟨t, hexec, hfinished, e, he, hstored, hwel⟩ := hloop
  refine ⟨t, e, hexec, hfinished, he, hstored.idle, hwel, fun x => ?_⟩
  rw [State.memByte_of_device he, State.memByte_of_device hd, hstored.bytes, List.length_take, Nat.min_eq_left hsrc]
  split
  · rw [List.getD_eq_getElem?_getD, List.getD_eq_getElem?_getD, List.getElem?_take_of_lt (by omega)]
  · rfl

end Sys2Proof.Machine
end

section
/-! SUPPORT. The two reads from their READ frame to their result: how many bytes come, which they are, and what is posted
(42_read_engine.md R172, R176, R178). -/

namespace Sys2Proof.Machine

/-! ## What a read receives -/

/-- The READ frame of a read that DECODE let pass is sent, and its receive exchange comes next (42_read_engine.md R171). -/
def State.readSent (op : BitVec 3) (bus : BitVec 8) (addr len : BitVec 16) (value : BitVec 8) (s : State) : State :=
  lineRCmd (lineRSel (s.started op .rSel bus addr len value))

/-- `u` is `s` past the receive exchange of a read at `addr`, which asked for `n` bytes and delivered `got`. -/
structure State.Received (bus : BitVec 8) (addr : BitVec 16) (n : Nat) (got : List (BitVec 8)) (s u : State) : Prop where
  trace  : u.trace = [.select bus, .tx bus (readBytes addr) s.nextTx, .rx bus n got]
  ok     : u.xferOk = decide (got.length = n)
  bus    : u.reqBus = bus
  par    : u.par = s.par
  posted : u.posted = s.posted

section
variable {s : State} {op : BitVec 3} {bus : BitVec 8} {addr len : BitVec 16} {value : BitVec 8} {d : Device} {n : Nat}

theorem State.readSent_nextRx {c : Nat} {rest : List Nat} (h : s.rxAnswers = c :: rest) (hn : n ≤ c) :
    (s.readSent op bus addr len value).nextRx n = n :=
  (State.nextRx_cons (s := s.readSent op bus addr len value) (rest := rest) h).trans (Nat.min_eq_right hn)

/-- The device on a read's bus holds the READ frame it was sent. -/
theorem State.readSent_device : (s.readSent op bus addr len value).device bus =
    (s.device bus).map fun d => Device.onTx (readBytes addr) s.nextTx d.onSelect := by
  generalize hv : (s.started op .rSel bus addr len value).select.stageBytes (readBytes addr) = v
  have hstaged : v.staged = readBytes addr := by rw [← hv, State.stageBytes_staged]
  have hselected : v.device v.reqBus = (s.device bus).map Device.onSelect := by
    subst hv
    exact (s.started op .rSel bus addr len value).select_device
  have hnext : v.nextTx = s.nextTx := by subst hv; rfl
  have hsent := v.transmit_device
  rw [hstaged, hselected, hnext, Option.map_map] at hsent
  subst hv
  exact hsent

/-- An idle device outputs its array from the address of the READ frame on (43_device_commands.md R198). -/
theorem Device.output_read (par : Config.Params) (k n : Nat) (addr : BitVec 16) (hidle : d.wipMs = 0) :
    (Device.onTx (readBytes addr) true d.onSelect).output par k n =
      Memory.readRun d.mem par.deviceSize (addr.toNat % par.deviceSize) n := by
  simp [Device.output, Device.onTx, Device.onSelect, readBytes, hidle]

/-- With both exchanges of a read successful, the bytes of an idle device's array come. -/
theorem State.readSent_rxBytes (hd : s.device bus = some d) (hidle : d.wipMs = 0) (htx : s.nextTx = true)
    (hrx : (s.readSent op bus addr len value).nextRx n = n) : (s.readSent op bus addr len value).rxBytes bus n =
      Memory.readRun d.mem s.par.deviceSize (addr.toNat % s.par.deviceSize) n := by
  rw [State.rxBytes, if_pos hrx, State.readSent_device, hd, htx]
  exact Device.output_read _ _ _ _ hidle

end

/-! ## The end of a read -/

section
variable {s u : State} {bus : BitVec 8} {addr : BitVec 16} {n : Nat} {got : List (BitVec 8)}

/-- A read whose bytes came posts OK, after the settle delay where there is one (42_read_engine.md R178). -/
theorem readEnd_of_ok (hok : u.xferOk = true) : readEnd u =
    (if u.par.readSettle then u.deselect.delay 4 else u.deselect).finish .ok u.readValue := by
  by_cases hsettle : u.par.readSettle = true
  · rw [readEnd, if_pos ⟨hok, hsettle⟩, lineRDesel, if_neg (by simp [hok]), if_pos hsettle, if_pos hsettle]
    rfl
  · simp [readEnd, lineRDesel, hok, hsettle]

theorem readEnd_of_short (hok : u.xferOk = false) : readEnd u = u.deselect.raise u.readFailure := by
  simp [readEnd, lineRDesel, hok]

theorem State.Received.trace_readEnd (h : s.Received bus addr n got u) : (readEnd u).trace =
    [.select bus, .tx bus (readBytes addr) s.nextTx, .rx bus n got, .deselect bus] ++
      (if got.length = n ∧ s.par.readSettle = true then [.delay 4] else []) := by
  obtain ⟨htrace, hok, rfl, hpar, -⟩ := h
  by_cases hgot : got.length = n
  · rw [readEnd_of_ok (hok.trans (decide_eq_true hgot)), hpar]
    by_cases hsettle : s.par.readSettle = true <;> simp [htrace, hgot, hsettle]
  · rw [readEnd_of_short (hok.trans (decide_eq_false hgot))]
    simp [htrace, hgot]

theorem State.Received.finished (h : s.Received bus addr n got u) (hgot : got.length = n) :
    s.Finished (readEnd u) .ok u.readValue := by
  rw [readEnd_of_ok (h.ok.trans (decide_eq_true hgot))]
  refine ⟨rfl, congrArg (· + 1) (Eq.trans ?_ h.posted), rfl, rfl⟩
  split <;> rfl

theorem State.Received.failed (h : s.Received bus addr n got u) (hgot : got.length ≠ n) :
    s.Finished (readEnd u) u.readFailure 0 := by
  rw [readEnd_of_short (h.ok.trans (decide_eq_false hgot))]
  exact ⟨rfl, congrArg (· + 1) h.posted, rfl, rfl⟩

end

/-! ## READ_BYTE -/

section
variable {s : State} {bus : BitVec 8} {addr len : BitVec 16} {value : BitVec 8}

theorem lineRDataByte_received : s.Received bus addr 1 ((s.readSent opReadByte bus addr len value).rxBytes bus 1)
    (lineRDataByte (s.readSent opReadByte bus addr len value)) where
  trace := rfl
  ok := by
    rw [State.length_rxBytes]
    rfl
  bus := rfl
  par := rfl
  posted := rfl

theorem lineRDataByte_readValue {v : BitVec 8} (h : (s.readSent opReadByte bus addr len value).rxBytes bus 1 = [v]) :
    (lineRDataByte (s.readSent opReadByte bus addr len value)).readValue = v :=
  (if_pos (State.nextRx_of_rxBytes h)).trans (congrArg (·.headD 0) h)

/-! ## READ -/

/-- A READ of a range in the array into a buffer with the room: past its receive exchange, DST begins with `LEN` bytes, which
are those received when all came (42_read_engine.md R176, R179). -/
theorem execRead_received (value : BitVec 8) (hr : s.resetIn = none) (ha : s.Accepts bus addr.toNat len.toNat)
    (hdst : len.toNat ≤ s.dst.length) : ∃ u bytes, execRead bus addr len value s = .next (readEnd u) ∧
      s.Received bus addr len.toNat ((s.readSent opRead bus addr len value).rxBytes bus len.toNat) u ∧
      u.readValue = 0 ∧ u.readFailure = .transportFail ∧
      u.dst = bytes ++ s.dst.drop len.toNat ∧ bytes.length = len.toNat ∧
      (((s.readSent opRead bus addr len value).rxBytes bus len.toNat).length = len.toNat →
        bytes = (s.readSent opRead bus addr len value).rxBytes bus len.toNat) := by
  obtain ⟨bytes, hlength, hall, hu⟩ := lineRDataRun_eq (s := s.readSent opRead bus addr len value) hdst
  refine ⟨_, bytes, execRead_eq value hr ha hdst hu, ⟨rfl, ?ok, rfl, rfl, rfl⟩, rfl, rfl, ?dst, hlength, ?all⟩
  case ok =>
    rw [State.length_rxBytes]
    rfl
  case dst => exact congrArg (fun k => bytes ++ s.dst.drop k) hlength
  case all => exact fun h => hall ((State.length_rxBytes _ _ _).symm.trans h)

end

/-! ## The statements -/

/-- Settles O27: the lines perform the four events, and the end of the read posts OK exactly when the receive exchange delivered
its byte. -/
theorem readByteRunsItsEvents : Obligations.ReadByteRunsItsEvents := by
  unfold Obligations.ReadByteRunsItsEvents
  intro s bus addr len value hr hb ha
  have hreceived := lineRDataByte_received (s := s) (bus := bus) (addr := addr) (len := len) (value := value)
  refine ⟨_, _, execReadByte_eq len value hr hb ha, ?length, hreceived.trace_readEnd, ?received, ?noData⟩
  case length =>
    rw [State.length_rxBytes]
    exact State.nextRx_le _ 1
  case received =>
    intro v hv
    rw [← lineRDataByte_readValue hv]
    exact hreceived.finished (congrArg List.length hv)
  case noData =>
    intro hnil
    exact hreceived.failed (by rw [hnil]; decide)

/-- Settles O28: the byte received is the first of the array's bytes from the address on. -/
theorem readByteReturnsTheByte : Obligations.ReadByteReturnsTheByte := by
  unfold Obligations.ReadByteReturnsTheByte
  intro s bus addr len value d c rest hr hd ha hidle htx hrx
  have hgot := State.readSent_rxBytes (op := opReadByte) (addr := addr) (len := len) (value := value) hd hidle htx
    (State.readSent_nextRx hrx (Nat.le_add_left 1 c))
  have hbyte : Memory.readRun d.mem s.par.deviceSize (addr.toNat % s.par.deviceSize) 1 = [s.memByte bus addr.toNat] := by
    simp [Memory.readRun, State.memByte_of_device hd, Nat.mod_eq_of_lt ha]
  refine ⟨_, execReadByte_eq len value hr (State.lt_of_device hd) ha, ?_⟩
  rw [← lineRDataByte_readValue (hgot.trans hbyte)]
  exact lineRDataByte_received.finished (congrArg List.length (hgot.trans hbyte))

/-- Settles O29: the lines perform the four events, and the receive exchange replaces the first `LEN` bytes of DST. -/
theorem readRunsItsEvents : Obligations.ReadRunsItsEvents := by
  unfold Obligations.ReadRunsItsEvents
  intro s bus addr len value hr ha hdst
  obtain ⟨u, bytes, hexec, hreceived, hvalue, hfailure, hbuffer, hlength, hall⟩ := execRead_received value hr ha hdst
  have hend : (readEnd u).dst = bytes ++ s.dst.drop len.toNat := (readEnd_buffers u).1.trans hbuffer
  refine ⟨_, _, hexec, ?length, hreceived.trace_readEnd, ?received, ?short, ?dstLength, ?dstKept⟩
  case length =>
    rw [State.length_rxBytes]
    exact State.nextRx_le _ _
  case received =>
    intro hgot
    rw [← hall hgot]
    exact ⟨hvalue ▸ hreceived.finished hgot, hend⟩
  case short =>
    exact fun hgot => hfailure ▸ hreceived.failed hgot
  case dstLength =>
    rw [hend, List.length_append, List.length_drop]
    omega
  case dstKept =>
    rw [hend, ← hlength, List.drop_left]

/-- Settles O30: all bytes come, and they are the array's from the address on, none of which wraps. -/
theorem readFillsTheBuffer : Obligations.ReadFillsTheBuffer := by
  unfold Obligations.ReadFillsTheBuffer
  intro s bus addr len value d c rest hr ha hdst hd hidle htx hrx hc
  obtain ⟨u, bytes, hexec, hreceived, hvalue, -, hbuffer, -, hall⟩ := execRead_received value hr ha hdst
  have hcount := State.readSent_nextRx (op := opRead) (bus := bus) (addr := addr) (len := len) (value := value) hrx hc
  have hlength := (State.length_rxBytes _ bus len.toNat).trans hcount
  refine ⟨_, hexec, hvalue ▸ hreceived.finished hlength, fun k hk => ?_⟩
  obtain ⟨-, hstart, hfits⟩ := ha
  rw [(readEnd_buffers u).1, hbuffer, hall hlength, State.readSent_rxBytes hd hidle htx hcount,
    List.getElem?_append_left (by simpa using hk), State.memByte_of_device hd]
  simp [Memory.readRun, hk, Nat.mod_eq_of_lt (show addr.toNat + k < s.par.deviceSize by omega)]

/-! ## A READ after a WRITE (42_read_engine.md R180) -/

/-- The last chunk is one chunk (41_page_write.md R145). -/
theorem State.chunkCount_last {u : State} (h : u.nextLen = u.remLen.toNat) :
    chunkCount u.curAddr.toNat u.remLen.toNat = 1 := by
  simpa [writeChunks] using congrArg List.length (State.comingChunks_last h)

theorem State.AllSucceed.last {u : State} {rest : List Bool} (h : u.AllSucceed rest) (hlast : u.nextLen = u.remLen.toNat) :
    u.chunkDone.txAnswers = rest := by
  rw [State.AllSucceed, State.chunkCount_last hlast] at h
  rw [State.chunkDone, State.delay_txAnswers, State.sendChunk_txAnswers, h]
  rfl

/-- A WRITE uses two transmit answers a chunk and no receive answer (41_page_write.md R145, R147). -/
theorem execWrite_answers {s : State} {bus : BitVec 8} {addr len : BitVec 16} (value : BitVec 8) {rest : List Bool}
    (hr : s.resetIn = none) (ha : s.Accepts bus addr.toNat len.toNat) (hsrc : len.toNat ≤ s.src.length)
    (htx : s.txAnswers = List.replicate (2 * chunkCount addr.toNat len.toNat) true ++ rest) :
    ∃ t, exec (.write bus addr len value) s = .next t ∧ t.txAnswers = rest ∧ t.rxAnswers = s.rxAnswers := by
  refine execWrite_loop (P := fun u => u.AllSucceed rest ∧ u.rxAnswers = s.rxAnswers) value hr ha hsrc ?failed ?last ?next ?start
  case failed =>
    intro u _ h hfailed
    exact absurd (h.1.nextSent.symm.trans hfailed) (by decide)
  case last =>
    exact fun u _ h _ hlast => ⟨h.1.last hlast, h.2⟩
  case next =>
    exact fun u hu h _ hn => ⟨h.1.nextPlan hu hn, h.2⟩
  case start =>
    exact ⟨htx, rfl⟩

/-- Settles O42: the WRITE stores the bytes of SRC and leaves the device idle, and the READ returns the bytes of the array. -/
theorem writeReadRoundTrip : Obligations.WriteReadRoundTrip := by
  unfold Obligations.WriteReadRoundTrip
  intro s bus addr len value value' d buf txs c rxs hl hr ha hsrc hbuf hd hwf hidle hfast hopen htx hrx hc
  rw [List.replicate_succ', List.append_assoc] at htx
  obtain ⟨t, e, hwrite, ⟨-, -, hstatus, -⟩, he, heidle, -, hstored⟩ :=
    writeStoresExactlyItsBytes s bus addr len value d _ hl hr ha hsrc hd hwf hidle hfast hopen htx
  obtain ⟨-, -, -, -, -, ⟨-, hpar, -, hreset, -⟩, -⟩ := writeFrame s t bus addr len value hl hr ha hwrite
  obtain ⟨t', hwrite', htxs, hrxs⟩ := execWrite_answers value hr ha hsrc htx
  obtain rfl : t' = t := Host.Outcome.next.inj (hwrite'.symm.trans hwrite)
  have ha' : State.Accepts { t' with dst := buf } bus addr.toNat len.toNat :=
    ⟨State.lt_of_device he, hpar ▸ ha.2.1, hpar ▸ ha.2.2⟩
  obtain ⟨u, hread, ⟨-, -, hstatus', -⟩, hbytes⟩ := readFillsTheBuffer { t' with dst := buf } bus addr len value' e c rxs
    (hreset.trans hr) ha' hbuf he heidle (State.nextTx_cons htxs) (hrxs.trans hrx) hc
  refine ⟨t', u, hwrite, hstatus, hread, hstatus', List.ext_getElem? fun k => ?_⟩
  by_cases hk : k < len.toNat
  · have hbyte : t'.memByte bus (addr.toNat + k) = s.src.getD k 0 := by
      rw [hstored, if_pos (by omega), Nat.add_sub_cancel_left]
    rw [List.getElem?_take_of_lt hk, List.getElem?_take_of_lt hk, hbytes k hk]
    have hin : k < s.src.length := hk.trans_le hsrc
    rw [List.getElem?_eq_getElem hin, ← List.getD_eq_getElem _ 0 hin]
    exact congrArg some hbyte
  · rw [List.getElem?_take_eq_none (by omega), List.getElem?_take_eq_none (by omega)]

end Sys2Proof.Machine
end

section
/-! SUPPORT. The commands of the device, each driven directly at it as one transaction (43_device_commands.md R192 to R204), the
time that passes at it (R205), and one chunk of a WRITE at it (R207). -/

namespace Sys2Proof.Machine

/-! ## What a command does to the data of the device -/

section
variable {par : Config.Params} {d : Device}

theorem Device.doWrsr_ignored (k : Nat) (v : BitVec 8) (h : 0 < d.wipMs ∨ d.wel = false) : d.doWrsr par k v = d := by
  obtain hbusy | hwel := h
  · exact if_pos (decide_eq_true hbusy)
  · rw [Device.doWrsr, if_pos hwel, ite_self]

/-- WRSR on a locked register (43_device_commands.md R197). -/
theorem Device.doWrsr_locked (k : Nat) (v : BitVec 8) (hidle : d.wipMs = 0) (hwel : d.wel = true)
    (hlocked : d.statusLocked par = true) : d.doWrsr par k v = { d with wel := Config.freeBit k } := by
  simp [Device.doWrsr, hidle, hwel, hlocked]

theorem Device.doWrsr_written (k : Nat) (v : BitVec 8) (hidle : d.wipMs = 0) (hwel : d.wel = true)
    (hopen : d.statusLocked par = false) :
    d.doWrsr par k v = { d.writeStatusBits v with wel := false, wipMs := par.tWcDevice } := by
  simp [Device.doWrsr, hidle, hwel, hopen]

theorem Device.statusLocked_iff : d.statusLocked par = true ↔ d.wpen = true ∧ par.wpN = false := by
  simp [Device.statusLocked]

theorem Device.doWrite_ignored (k : Nat) (a : BitVec 16) {data : List (BitVec 8)}
    (h : 0 < d.wipMs ∨ d.wel = false ∨ data = []) : d.doWrite par k a data = d := by
  obtain hbusy | hwel | hdata := h
  · exact if_pos (decide_eq_true hbusy)
  · rw [Device.doWrite, if_pos hwel, ite_self]
  · rw [Device.doWrite, if_pos hdata, ite_self, ite_self]

/-- WRITE to a protected page, at a busy device too (43_device_commands.md R199 to R201). -/
theorem Device.doWrite_protected (k : Nat) (a : BitVec 16) (data : List (BitVec 8))
    (h : d.protects par (devicePageBase par a) = true) : ∃ w, d.doWrite par k a data = { d with wel := w } := by
  rw [Device.doWrite, if_pos h]
  repeat' split
  case isFalse.isFalse.isFalse => exact ⟨_, rfl⟩
  all_goals exact ⟨d.wel, rfl⟩

theorem Device.doWrite_stored (k : Nat) (a : BitVec 16) {data : List (BitVec 8)} (hidle : d.wipMs = 0) (hwel : d.wel = true)
    (hdata : data ≠ []) (hopen : d.protects par (devicePageBase par a) = false) :
    d.doWrite par k a data =
      { d with mem := Memory.writePage d.mem (devicePageBase par a) (devicePageOffset par a) data,
               wel := false, wipMs := par.tWcDevice } := by
  simp [Device.doWrite, hidle, hwel, hdata, hopen]

/-! ## A transaction whose transmit exchange failed (43_device_commands.md R203) -/

theorem Device.transaction_wren_failed (k c : Nat) :
    d.transaction par k wrenBytes false c = { d.closed true with wel := Config.freeBit k } := by
  rw [Device.transaction_garbled]
  rfl

theorem Device.transaction_wrdi_failed (k c : Nat) :
    d.transaction par k [0x04#8] false c = { d.closed true with wel := Config.freeBit k } := by
  rw [Device.transaction_garbled]
  rfl

theorem Device.transaction_wrsr_failed (k c : Nat) (v : BitVec 8) :
    d.transaction par k (wrsrBytes v) false c =
      { d.closed true with
        wel := Config.freeBit k, wpen := Config.freeBit (k + 2), bp1 := Config.freeBit (k + 3),
        bp0 := Config.freeBit (k + 4), wipMs := anyCycle par (k + 1) } := by
  rw [Device.transaction_garbled]
  rfl

theorem Device.transaction_write_failed (k c : Nat) (a : BitVec 16) (data : List (BitVec 8)) :
    d.transaction par k (writeBytes a data) false c =
      { d.closed true with
        mem := Memory.writePage d.mem (devicePageBase par a) 0 (anyBytes k Config.pageSize),
        wel := Config.freeBit k, wipMs := anyCycle par (k + 1) } := by
  have hcommand : decodeFrame ([] ++ writeBytes a data) = .instr (.writeFrame a data) := decodeFrame_write a data
  rw [Device.transaction_garbled]
  simp only [Device.garbled, Device.onTx, Device.onSelect, hcommand, Device.closed]

/-- A frame that is no command changes nothing, whether its exchange failed or not (43_device_commands.md R202; log entry 17). -/
theorem Device.transaction_noCommand {xs : List (BitVec 8)} (h : ∀ i, decodeFrame xs ≠ .instr i) (k c : Nat) (ok : Bool) :
    d.transaction par k xs ok c = d.closed (!ok) := by
  cases hx : decodeFrame xs with
  | instr i => exact absurd hx (h i)
  | rejected e =>
    cases ok <;>
      simp [Device.transaction, Device.onDeselect, Device.onTx, Device.onSelect, Device.command, Device.garbled, Device.closed,
        hx]

/-! ## What a device outputs -/

/-- A device that holds an RDSR frame outputs its status register, busy or not (43_device_commands.md R195, R201). -/
theorem Device.output_rdsr (m i n : Nat) :
    { Device.onTx rdsrBytes true d.onSelect with readCount := m }.output par i n = List.replicate n d.statusByte := rfl

/-- An idle device that holds a READ frame outputs its array, past the `m` bytes output before (43_device_commands.md R198). -/
theorem Device.output_readFrom (m i n : Nat) (a : BitVec 16) (hidle : d.wipMs = 0) :
    { Device.onTx (readBytes a) true d.onSelect with readCount := m }.output par i n =
      Memory.readRun d.mem par.deviceSize (a.toNat % par.deviceSize + m) n := by
  simp [Device.output, Device.onTx, Device.onSelect, readBytes, hidle]

end

/-! ## A direct frame (log entry 13) -/

/-- A frame's instruction is run as the transaction of its bytes. -/
theorem exec_frame_eq {i : Instr} (hi : isRequest i = false) : ∃ bytes, ∀ s, exec i s = .next (benchTransaction bytes s) := by
  cases i with
  | wrsr | writeFrame | readFrame | wrdi | rdsr | wren => exact ⟨_, fun _ => rfl⟩
  | _ => cases hi

section
variable {s : State} {d : Device} {bytes : List (BitVec 8)}

theorem benchTransaction_device_some {ok : Bool} (hd : s.device s.benchBus = some d) (htx : s.nextTx = ok)
    (hb : bytes ≠ []) :
    ∃ k c, (benchTransaction bytes s).device s.benchBus = some (d.transaction s.par k bytes ok c) := by
  obtain ⟨k, c, h⟩ := benchTransaction_device bytes s hb
  exact ⟨k, c, by rw [h, hd, htx]; rfl⟩

/-- A transaction with no byte is at its device as one of an empty frame that came through (43_device_commands.md R202). -/
theorem benchTransaction_device_nil (hd : s.device s.benchBus = some d) :
    ∃ k c, (benchTransaction [] s).device s.benchBus = some (d.transaction s.par k [] true c) := by
  obtain ⟨⟨m, hown⟩, -, -⟩ := benchReceive_buses s.benchBus s.benchRx (benchOpen [] s)
  have hopen : (benchOpen [] s).device s.benchBus = some d.onSelect :=
    (State.onDevice_device { s with benchGot := [] } s.benchBus Device.onSelect).trans (congrArg (Option.map _) hd)
  have hpar : (benchReceive s.benchBus s.benchRx (benchOpen [] s)).par = s.par :=
    (benchReceive_sameParameters _ _ _).1.trans (benchOpen_sameParameters _ _).1
  refine ⟨(benchReceive s.benchBus s.benchRx (benchOpen [] s)).draws, 0 + m, ?_⟩
  rw [benchTransaction_eq, State.deviceDeselect, State.drew_device, State.onDevice_device, hown, hopen, hpar]
  rfl

/-- A direct frame that is no command leaves its device as it was, but for its closed frame. -/
theorem benchTransaction_noCommand (hd : s.device s.benchBus = some d) (h : ∀ i, decodeFrame bytes ≠ .instr i) :
    ∃ taint, (benchTransaction bytes s).device s.benchBus = some (d.closed taint) := by
  by_cases hb : bytes = []
  · subst hb
    obtain ⟨k, c, hown⟩ := benchTransaction_device_nil hd
    exact ⟨_, hown.trans (congrArg some (Device.transaction_noCommand h k c true))⟩
  · obtain ⟨k, c, hown⟩ := benchTransaction_device_some hd rfl hb
    exact ⟨_, hown.trans (congrArg some (Device.transaction_noCommand h k c s.nextTx))⟩

end

/-! ## One chunk of a WRITE (43_device_commands.md R207) -/

section
variable {s : State}

/-- The same plan with the bytes of SRC before CUR_OFF taken away. The next chunk carries the same bytes, and CUR_OFF keeps the
bound that `State.AtPlan` asks for, which a state outside a run need not meet. -/
def State.rebased (s : State) : State := { s with src := s.src.drop s.curOff.toNat, curOff := 0 }

theorem State.rebased_atPlan (hp : s.phase = .wPlan) (hr : s.resetIn = none)
    (hsrc : s.curOff.toNat + s.remLen.toNat ≤ s.src.length) : s.rebased.AtPlan := by
  refine ⟨hp, hr, ?_, ?_⟩
  · show (0#16).toNat + s.remLen.toNat ≤ (s.src.drop s.curOff.toNat).length
    simp
    omega
  · show (0#16).toNat + s.remLen.toNat < 65536
    have := s.remLen.isLt
    simpa using this

theorem State.rebased_chunkDone_device (b : BitVec 8) : s.rebased.chunkDone.device b = s.chunkDone.device b := by
  have hdata : s.rebased.nextData = s.nextData := rfl
  rw [State.chunkDone, hdata]
  rfl

/-- Eight lines run a chunk whose WRITE frame comes through, whether it is the last one or not. -/
theorem runLines_sentChunk (hp : s.phase = .wPlan) (hr : s.resetIn = none)
    (hsrc : s.curOff.toNat + s.remLen.toNat ≤ s.src.length) (hsent : s.nextSent = true) :
    ∃ t, runLines 8 s = .next t ∧ ∀ b, t.device b = s.chunkDone.device b := by
  have hlen := s.nextLen_le
  have hslice : sliceBytes s.src s.curOff.toNat (chunkLength s.curAddr.toNat s.remLen.toNat) = some s.nextData :=
    if_pos (show s.curOff.toNat + s.nextLen ≤ s.src.length by omega)
  have hrun := runLines_chunk s hp hr hslice 0
  rw [if_pos (by exact hsent)] at hrun
  by_cases hlast : chunkLength s.curAddr.toNat s.remLen.toNat = s.remLen.toNat
  · exact ⟨_, hrun.trans (if_pos hlast), fun _ => rfl⟩
  · exact ⟨_, hrun.trans (if_neg hlast), fun _ => rfl⟩

theorem State.nextData_getD {i : Nat} (h : i < s.nextLen) : s.nextData.getD i 0 = s.src.getD (s.curOff.toNat + i) 0 := by
  rw [List.getD_eq_getElem?_getD, List.getD_eq_getElem?_getD, State.nextData, List.getElem?_take_of_lt h, List.getElem?_drop]

theorem State.nextLen_pos (h : 1 ≤ s.remLen.toNat) : 1 ≤ s.nextLen := by
  have hpage := (pageRemaining_bounds s.curAddr.toNat).1
  rw [State.nextLen, chunkLength_eq_min]
  exact Nat.le_min.2 ⟨h, hpage⟩

end

/-! ## The statements -/

/-- Settles O37: the eight lines send the chunk and let its write cycle pass, and the chunk stores its bytes in their page. -/
theorem oneChunkWritesItsBytes : Obligations.OneChunkWritesItsBytes := by
  unfold Obligations.OneChunkWritesItsBytes
  intro s d rest hl hr hp hd hwf hrem hin hsrc hidle hopen hfast htx
  obtain ⟨t, hrun, hdevice⟩ := runLines_sentChunk hp hr hsrc (State.nextSent_cons htx)
  obtain ⟨e, he, hstored, hwel⟩ := (State.rebased_atPlan hp hr hsrc).chunkDone_stored (d := d) hd hwf hidle
    (show s.curAddr.toNat < s.par.deviceSize by omega) (fun _ => hopen) hfast (State.nextTx_cons (rest := true :: rest) htx)
    (State.nextSent_cons (rest := rest) htx)
  have hown : t.device s.reqBus = some e := (hdevice _).trans ((State.rebased_chunkDone_device _).symm.trans he)
  refine ⟨t, e, hrun, hown, hwel (State.nextLen_pos hrem), hstored.idle, fun a => ?_⟩
  have hbytes := hstored.bytes a
  rw [State.length_nextData (State.rebased_atPlan hp hr hsrc)] at hbytes
  rw [State.memByte_of_device hown, State.memByte_of_device hd]
  refine hbytes.trans (ite_congr rfl (fun ha => ?_) fun _ => rfl)
  exact s.nextData_getD (Nat.sub_lt_left_of_lt_add ha.1 ha.2)

/-- Settles O43: the frame is one transaction, at whose Deselect an idle device sets WEL. -/
theorem wrenSetsTheLatch : Obligations.WrenSetsTheLatch := by
  unfold Obligations.WrenSetsTheLatch
  intro s d hd htx
  obtain ⟨k, c, hown⟩ := benchTransaction_device_some hd htx (List.cons_ne_nil 0x06#8 [])
  exact ⟨_, rfl, hown.trans (congrArg some (d.transaction_wren s.par k c))⟩

/-- Settles O44: the frame is one transaction, at whose Deselect an idle device clears WEL. -/
theorem wrdiClearsTheLatch : Obligations.WrdiClearsTheLatch := by
  unfold Obligations.WrdiClearsTheLatch
  intro s d hd htx
  obtain ⟨k, c, hown⟩ := benchTransaction_device_some hd htx (List.cons_ne_nil 0x04#8 [])
  exact ⟨_, rfl, hown.trans (congrArg some (d.transaction_wrdi s.par k c))⟩

/-- Settles O45: every successful receive exchange gets the device's output, which is its status byte over and over. -/
theorem rdsrOutputsTheRegister : Obligations.RdsrOutputsTheRegister := by
  unfold Obligations.RdsrOutputsTheRegister
  intro s d hd htx
  have hb : rdsrBytes ≠ [] := List.cons_ne_nil _ _
  obtain ⟨k, c, hown⟩ := benchTransaction_device_some hd htx hb
  refine ⟨benchTransaction rdsrBytes s, d.statusByte, rfl, hown.trans (congrArg some (d.transaction_rdsr s.par k c true)),
    benchTransaction_delivered rdsrBytes s, fun j n xs hj hxs hn => ?_, d.statusByte_toNat⟩
  obtain ⟨m, i, hout, -⟩ := benchTransaction_output rdsrBytes s hb hd j n xs hj hxs hn
  rw [htx] at hout
  exact hout.trans (Device.output_rdsr m i n)

/-- Settles O46: the frame is one transaction, at whose Deselect the three cases of the WRSR command apply. -/
theorem wrsrWritesTheRegister : Obligations.WrsrWritesTheRegister := by
  unfold Obligations.WrsrWritesTheRegister
  intro s d v hd htx
  obtain ⟨k, c, hown⟩ := benchTransaction_device_some hd htx (List.cons_ne_nil 0x01#8 [v])
  rw [Device.transaction_wrsr] at hown
  refine ⟨_, _, rfl, hown, fun h => ?ignored, fun hidle hwel hwpen hpin => ?locked, fun hidle hwel hopen => ?written⟩
  case ignored => rw [Device.doWrsr_ignored k v h]
  case locked =>
    rw [Device.doWrsr_locked k v hidle hwel (Device.statusLocked_iff.2 ⟨hwpen, hpin⟩)]
    exact ⟨_, rfl⟩
  case written =>
    rw [Device.doWrsr_written k v hidle hwel (Bool.eq_false_iff.2 fun h => hopen (Device.statusLocked_iff.1 h))]
    rfl

/-- Settles O47: every successful receive exchange gets the device's output, with the read pointer past the bytes of the
exchanges before it. -/
theorem readFrameStreamsTheArray : Obligations.ReadFrameStreamsTheArray := by
  unfold Obligations.ReadFrameStreamsTheArray
  intro s d addr hd htx
  have hb : readBytes addr ≠ [] := List.cons_ne_nil _ _
  have hdelivered := benchTransaction_delivered (readBytes addr) s
  obtain ⟨k, c, hown⟩ := benchTransaction_device_some hd htx hb
  refine ⟨benchTransaction (readBytes addr) s, rfl, hown.trans (congrArg some (d.transaction_read s.par k c true addr)),
    hdelivered, fun hidle j n hj hall => ?_⟩
  obtain ⟨xs, hxs, -, -⟩ := hdelivered.2 j n hj
  have hn : xs.length = n := by simpa [hxs, hj] using hall j le_rfl
  obtain ⟨m, i, hout, hm⟩ := benchTransaction_output (readBytes addr) s hb hd j n xs hj hxs hn
  rw [htx, Device.output_readFrom m i n addr hidle, hm fun q hq => hall q hq.le] at hout
  rw [hxs, hout]
  rfl

/-- Settles O48: the frame is one transaction, at whose Deselect the device writes the page. -/
theorem writeFrameStoresInThePage : Obligations.WriteFrameStoresInThePage := by
  unfold Obligations.WriteFrameStoresInThePage
  intro s d addr data hd htx hwf hidle hwel hdata hopen
  obtain ⟨k, c, hown⟩ := benchTransaction_device_some hd htx (List.cons_ne_nil 0x02#8 (hi8 addr :: lo8 addr :: data))
  have hcommand := Device.transaction_write s.par k c addr data d
  rw [Device.doWrite_stored k addr hidle hwel hdata hopen] at hcommand
  exact ⟨_, _, rfl, hown.trans (congrArg some hcommand),
    fun i hi hlast => Memory.read_writePage_last _ data _ hwf i hi hlast,
    fun a ha => Memory.read_writePage_ne _ a data _ _ ha⟩

/-- Settles O49: the frame is one transaction, at whose Deselect the WRITE command has no effect, or one on WEL at most. -/
theorem writeFrameThatStoresNothing : Obligations.WriteFrameThatStoresNothing := by
  unfold Obligations.WriteFrameThatStoresNothing
  intro s d addr data hd htx
  obtain ⟨k, c, hown⟩ := benchTransaction_device_some hd htx (List.cons_ne_nil 0x02#8 (hi8 addr :: lo8 addr :: data))
  refine ⟨_, _, rfl, hown.trans (congrArg some (Device.transaction_write s.par k c addr data d)), fun h => ?ignored,
    fun h => ?guarded⟩
  case ignored => rw [Device.doWrite_ignored k addr h]
  case guarded =>
    obtain ⟨w, hw⟩ := Device.doWrite_protected k addr data h
    rw [hw]
    exact ⟨w, rfl⟩

/-- Settles O51: at the Deselect of a failed frame what its command could change becomes free, and nothing else changes. -/
theorem failedFrameGarblesOnlyItsCommand : Obligations.FailedFrameGarblesOnlyItsCommand := by
  unfold Obligations.FailedFrameGarblesOnlyItsCommand
  intro s d v addr data hd htx
  have hframe : ∀ op rest, ∃ k c, (benchTransaction (op :: rest) s).device s.benchBus =
      some (d.transaction s.par k (op :: rest) false c) := fun op rest =>
    benchTransaction_device_some hd htx (List.cons_ne_nil op rest)
  refine ⟨?wren, ?wrdi, ?rdsr, ?read, ?wrsr, ?write⟩
  case wren =>
    obtain ⟨k, c, hown⟩ := hframe 0x06#8 []
    exact ⟨_, _, rfl, hown.trans (congrArg some (Device.transaction_wren_failed k c))⟩
  case wrdi =>
    obtain ⟨k, c, hown⟩ := hframe 0x04#8 []
    exact ⟨_, _, rfl, hown.trans (congrArg some (Device.transaction_wrdi_failed k c))⟩
  case rdsr =>
    obtain ⟨k, c, hown⟩ := hframe 0x05#8 []
    exact ⟨_, rfl, hown.trans (congrArg some (d.transaction_rdsr s.par k c false))⟩
  case read =>
    obtain ⟨k, c, hown⟩ := hframe 0x03#8 [hi8 addr, lo8 addr]
    exact ⟨_, rfl, hown.trans (congrArg some (d.transaction_read s.par k c false addr))⟩
  case wrsr =>
    obtain ⟨k, c, hown⟩ := hframe 0x01#8 [v]
    exact ⟨_, _, _, _, _, _, rfl, anyCycle_cases s.par (k + 1),
      hown.trans (congrArg some (Device.transaction_wrsr_failed k c v))⟩
  case write =>
    obtain ⟨k, c, hown⟩ := hframe 0x02#8 (hi8 addr :: lo8 addr :: data)
    exact ⟨_, _, _, _, rfl, anyCycle_cases s.par (k + 1),
      hown.trans (congrArg some (Device.transaction_write_failed k c addr data)),
      fun a ha => Memory.read_writePage_outside ha _ _ _⟩

/-- Settles O53: a direct frame is one transaction, which writes no register of the block and no other bus. -/
theorem framesLeaveTheBlockAlone : Obligations.FramesLeaveTheBlockAlone := by
  unfold Obligations.FramesLeaveTheBlockAlone
  intro i s hi
  obtain ⟨bytes, hexec⟩ := exec_frame_eq hi
  refine ⟨_, hexec s, fun b hne => benchTransaction_device_ne bytes s hne, benchTransaction_chipSelect bytes s, ?_⟩
  obtain ⟨bs, k, tx, rx, got, hrest⟩ := benchTransaction_rest bytes s
  rw [hrest]

/-- Settles O6: the step runs the transaction of the frame's bytes, and so does the instruction they decode to. -/
theorem stepRunsTheDecodedFrame : Obligations.StepRunsTheDecodedFrame := by
  unfold Obligations.StepRunsTheDecodedFrame
  intro s bus bytes rxs rest i hp hh hdecode
  exact (step_frame hp hh).trans (exec_of_decodeFrame hdecode (s.attachFrame bus rxs rest)).symm

/-- Settles O50, case by case of BP1 and BP0. -/
theorem blockProtectionCoversItsPart : Obligations.BlockProtectionCoversItsPart := by
  unfold Obligations.BlockProtectionCoversItsPart
  intro par d a _ _
  unfold Device.protects
  cases d.bp1 <;> cases d.bp0 <;> simp

/-- Settles O52: the frame is one transaction, at whose Deselect a device that finds no command does nothing. -/
theorem unknownFrameIsIgnored : Obligations.UnknownFrameIsIgnored := by
  unfold Obligations.UnknownFrameIsIgnored
  intro s d bus bytes rxs rest hp hh hdecode hd
  obtain ⟨taint, hown⟩ := benchTransaction_noCommand (s := s.attachFrame bus rxs rest) hd hdecode
  exact ⟨_, taint, step_frame hp hh, hown, benchTransaction_delivered bytes (s.attachFrame bus rxs rest)⟩

/-- Settles O54: the step lets the time pass at every device and takes the action off the host's list. -/
theorem waitRunsDownTheWriteCycle : Obligations.WaitRunsDownTheWriteCycle := by
  unfold Obligations.WaitRunsDownTheWriteCycle
  intro s ms rest hp hh
  refine ⟨_, step_wait hp hh, fun b d hd => ?_, fun b => State.passTime_chipSelect { s with host := rest } ms b, rfl⟩
  rw [State.passTime_device]
  exact congrArg (Option.map (Device.passTime ms)) hd

end Sys2Proof.Machine
end

section
/-! SUPPORT. The exceptions of a request: what DECODE refuses or stops, that nothing past DECODE stops, and what acceptance
latches. -/

namespace Sys2Proof.Machine

/-! ## What DECODE refuses (60_exceptions.md R232 to R234, R236) -/

section
variable {s : State} {op : BitVec 3} {bus : BitVec 8} {addr len : BitVec 16} {value : BitVec 8}

theorem lineDecode_invalidRequest (hdesc : s.descriptorOk = false) : lineDecode s = .next (s.raise .invalidRequest) :=
  if_pos hdesc

theorem lineDecode_invalidArgument (hdesc : s.descriptorOk = true) (h : s.busOk = false ∨ s.boundsOk = false) :
    lineDecode s = .next (s.raise .invalidArgument) := by
  unfold lineDecode
  rw [if_neg (ne_false_of_eq_true hdesc)]
  split
  · rfl
  · rename_i hbus
    exact if_pos (h.resolve_left hbus)

/-- A request that DECODE refuses posts its status and leaves the trace empty, the buses and DST as they were. -/
theorem runRequest_refused {d : Descriptor} {st : Status} (hr : s.resetIn = none)
    (h : lineDecode (s.accept d) = .next ((s.accept d).raise st)) :
    ∃ t, runRequest d s = .next t ∧ s.Finished t st 0 ∧ t.trace = [] ∧ t.buses = s.buses ∧ t.dst = s.dst :=
  ⟨_, runRequest_raise hr h, ⟨rfl, rfl, rfl, rfl⟩, rfl, rfl, rfl⟩

theorem runRequest_invalidArgument
    (hop : op = opWrite ∨ op = opRead ∨ op = opReadByte ∨ op = opReadStatus ∨ op = opWriteStatus) (hr : s.resetIn = none)
    (h : (s.accept (requestFields op bus addr len value)).busOk = false ∨
      (s.accept (requestFields op bus addr len value)).boundsOk = false) :
    ∃ t, runRequest (requestFields op bus addr len value) s = .next t ∧ s.Finished t .invalidArgument 0 ∧ t.trace = [] ∧
      t.buses = s.buses ∧ t.dst = s.dst :=
  runRequest_refused hr (lineDecode_invalidArgument (s.accept_descriptorOk bus addr len value hop) h)

/-- The bounds check of a range (60_exceptions.md R232). -/
theorem State.accept_boundsOk_range (hop : op = opWrite ∨ op = opRead) :
    (s.accept (requestFields op bus addr len value)).boundsOk = inBounds s.par.deviceSize addr.toNat len.toNat :=
  if_pos hop

/-- The bounds check of READ_BYTE, which looks at no length (60_exceptions.md R232). -/
theorem State.accept_boundsOk_readByte :
    (s.accept (requestFields opReadByte bus addr len value)).boundsOk = decide (addr.toNat < s.par.deviceSize) :=
  (if_neg (show ¬ (opReadByte = opWrite ∨ opReadByte = opRead) by decide)).trans (if_pos rfl)

/-! ## The buffer check (60_exceptions.md R235) -/

/-- Once the bus and bounds checks pass, the buffer check alone decides. -/
theorem runRequest_bufferFault {f : Fault} (hop : op = opWrite ∨ op = opRead) (hr : s.resetIn = none)
    (ha : s.Accepts bus addr.toNat len.toNat)
    (hf : (s.accept (requestFields op bus addr len value)).bufferFault = some f) :
    runRequest (requestFields op bus addr len value) s = .fault f := by
  obtain ⟨hbus, hrange⟩ := ha
  exact runRequest_fault hr (lineDecode_fault (s.accept_descriptorOk bus addr len value (hop.imp_right .inl))
    (decide_eq_true hbus) ((State.accept_boundsOk_range hop).trans (decide_eq_true hrange)) hf)

theorem State.bufferFault_shortSrc (hop : s.reqOp = opWrite) (hshort : s.src.length < s.reqLen.toNat) :
    s.bufferFault = some .sourceOverrun := if_pos ⟨hop, hshort⟩

theorem State.bufferFault_shortDst (hop : s.reqOp = opRead) (hshort : s.dst.length < s.reqLen.toNat) :
    s.bufferFault = some .destOverrun := by
  have hread : ¬ s.reqOp = opWrite := by rw [hop]; decide
  exact (if_neg fun hw => hread hw.1).trans (if_pos ⟨hop, hshort⟩)

theorem State.src_fits (h : s.bufferFault = none) (hop : s.reqOp = opWrite) : s.reqLen.toNat ≤ s.src.length :=
  Nat.le_of_not_lt fun hshort => nomatch h.symm.trans (State.bufferFault_shortSrc hop hshort)

theorem State.dst_fits (h : s.bufferFault = none) (hop : s.reqOp = opRead) : s.reqLen.toNat ≤ s.dst.length :=
  Nat.le_of_not_lt fun hshort => nomatch h.symm.trans (State.bufferFault_shortDst hop hshort)

end

/-! ## Past DECODE (60_exceptions.md R235, R236) -/

section
variable {s : State}

/-- The planned chunk of a WRITE in progress lies in SRC: what is sent and what is left make LEN (41_page_write.md R144). -/
theorem lineWTx_goesOn (h : s.Inv) (hp : s.phase = .wTx) : ∃ t, lineWTx s = .next t := by
  obtain ⟨⟨⟨-, -, -, hbuffer⟩, hop⟩, ⟨-, hoff⟩, ⟨-, hchunk⟩⟩ := h.writeFacts hp
  have hsrc := State.src_fits hbuffer hop
  have hle := chunkLength_le_rem s.curAddr.toNat s.remLen.toNat
  have hslice : sliceBytes s.src s.curOff.toNat s.chunkLen = some s.chunkData := if_pos (by omega)
  unfold lineWTx
  rw [hslice]
  exact ⟨_, rfl⟩

/-- READ_BYTE writes no byte of DST, and the buffer of READ has passed its check. -/
theorem lineRData_goesOn (h : s.Inv) (hp : s.phase = .rData) : ∃ t, lineRData s = .next t := by
  obtain ⟨-, -, -, hbuffer, hruns⟩ := h.request (by rw [hp]; decide) (by rw [hp]; decide)
  rw [hp] at hruns
  unfold lineRData
  split
  · exact ⟨_, rfl⟩
  · rename_i hbyte
    obtain ⟨_, -, -, hrun⟩ := lineRDataRun_eq (State.dst_fits hbuffer (hruns.resolve_right hbyte))
    exact ⟨_, hrun⟩

/-- W_TX and R_DATA are the only labels past DECODE whose line can fault. -/
theorem line_goesOn (h : s.Inv) (hdecode : s.phase ≠ .decode) : ∃ t, line s = .next t := by
  unfold line
  cases hp : s.phase
  case decode => exact absurd hp hdecode
  case wTx => exact lineWTx_goesOn h hp
  case rData => exact lineRData_goesOn h hp
  all_goals exact ⟨_, rfl⟩

/-- A reset answers a next state, and a countdown to one is not looked at by the line. -/
theorem tick_goesOn (hline : ∀ r, ∃ t, line { s with resetIn := r } = .next t) : ∃ t, tick s = .next t := by
  unfold tick
  split
  · exact hline s.resetIn
  · exact ⟨_, rfl⟩
  · exact hline _

end

/-! ## The host's actions (60_exceptions.md R248) -/

theorem State.startOperation_host (s : State) : s.startOperation.host = s.host := by
  unfold State.startOperation
  repeat' split
  all_goals rfl

theorem lineDecode_host {s t : State} (h : lineDecode s = .next t) : t.host = s.host := by
  unfold lineDecode at h
  repeat' split at h
  all_goals cases h
  · rfl
  · rfl
  · rfl
  · exact s.startOperation_host

/-- No line takes an action of the host. -/
theorem line_host {s t : State} (h : line s = .next t) : t.host = s.host := by
  unfold line at h
  cases hp : s.phase <;> simp only [hp] at h
  case decode => exact lineDecode_host h
  case wTx =>
    obtain ⟨-, rfl⟩ := lineWTx_next h
    rfl
  case rData =>
    unfold lineRData at h
    split at h
    · cases h
      rfl
    · obtain ⟨k, dst, -, rfl⟩ := lineRDataRun_next h
      rfl
  all_goals cases h
  case wDesel =>
    unfold lineWDesel
    split <;> rfl
  case wDelay =>
    unfold lineWDelay
    split <;> rfl
  case rDesel =>
    unfold lineRDesel
    repeat' split
    all_goals rfl
  case sDesel =>
    unfold lineSDesel
    split <;> rfl
  case wsDesel =>
    unfold lineWsDesel
    split <;> rfl
  all_goals rfl

/-! ## The fields of a descriptor (30_encoding.md R100) -/

/-- A field of the descriptor is the quotient of its word by the field's place, cut to its width. -/
theorem toNat_field (w : BitVec 64) (start width : Nat) :
    (w.extractLsb' start width).toNat = w.toNat / 2 ^ start % 2 ^ width := by
  rw [BitVec.extractLsb'_toNat, Nat.shiftRight_eq_div_pow]

/-- A descriptor whose OP is no operation, or that has a reserved bit set, fails its check (60_exceptions.md R234). -/
theorem State.accept_reserved (s : State) {desc : BitVec 64}
    (h : desc.toNat % 8 = 5 ∨ desc.toNat % 8 = 6 ∨ desc.toNat % 8 = 7 ∨ desc.toNat / 8 % 32 ≠ 0 ∨ desc.toNat / 2 ^ 56 ≠ 0) :
    (s.accept (splitDescriptor desc)).descriptorOk = false := by
  refine decide_eq_false fun hok => ?_
  obtain ⟨hrsv0, hrsv1, hop⟩ := hok
  have hnum : (splitDescriptor desc).op.toNat ≤ 4 := by
    obtain e | e | e | e | e := hop <;> rw [show (splitDescriptor desc).op = _ from e] <;> decide
  have h0 : (splitDescriptor desc).rsv0.toNat = 0 := congrArg BitVec.toNat hrsv0
  have h1 : (splitDescriptor desc).rsv1.toNat = 0 := congrArg BitVec.toNat hrsv1
  simp only [splitDescriptor, toNat_field] at hnum h0 h1
  have := desc.isLt
  omega

/-- Settles O14: the bus check comes before every check that looks at the operation. -/
theorem absentBusPostsInvalidArgument : Obligations.AbsentBusPostsInvalidArgument := by
  unfold Obligations.AbsentBusPostsInvalidArgument
  intro s bus addr len value i hi hr habsent
  obtain rfl | rfl | rfl | rfl | rfl := hi <;>
    exact runRequest_invalidArgument (by decide) hr (.inl (decide_eq_false (Nat.not_lt_of_le habsent)))

/-- Settles O15: a range goes through `inBounds`, a single byte through the comparison of its address. -/
theorem outOfRangePostsInvalidArgument : Obligations.OutOfRangePostsInvalidArgument := by
  unfold Obligations.OutOfRangePostsInvalidArgument
  intro s bus addr len value i hr _ hi
  obtain ⟨rfl | rfl, hout⟩ | ⟨rfl, hout⟩ := hi
  case inl.inl =>
    exact runRequest_invalidArgument (by decide) hr
      (.inr ((State.accept_boundsOk_range (.inl rfl)).trans (decide_eq_false hout)))
  case inl.inr =>
    exact runRequest_invalidArgument (by decide) hr
      (.inr ((State.accept_boundsOk_range (.inr rfl)).trans (decide_eq_false hout)))
  case inr =>
    exact runRequest_invalidArgument (by decide) hr
      (.inr (State.accept_boundsOk_readByte.trans (decide_eq_false hout)))

/-- Settles O59: the step is a reset or a line, whose accesses of SRC and DST the invariant keeps inside the buffers. -/
theorem noFaultPastDecode : Obligations.NoFaultPastDecode := by
  unfold Obligations.NoFaultPastDecode
  intro s h hidle hdecode
  rw [step_busy hidle]
  exact tick_goesOn fun r => line_goesOn (h.setResetIn r) hdecode

/-- Settles O5: the step runs the request of the word's fields, and so does the instruction they decode to. -/
theorem stepRunsTheDecodedRequest : Obligations.StepRunsTheDecodedRequest := by
  unfold Obligations.StepRunsTheDecodedRequest
  intro s desc src dst cut rest i hp hh hdecode
  exact (step_request hp hh).trans (exec_of_decodeRequest hdecode (s.attach src dst cut rest)).symm

/-- Settles O7: a line and a reset leave the host's actions as they are, and a busy step is one of the two. -/
theorem busyBlockHoldsTheHost : Obligations.BusyBlockHoldsTheHost := by
  unfold Obligations.BusyBlockHoldsTheHost
  intro s t hp h
  rw [step_busy hp] at h
  exact tick_keeps (P := fun u => u.host = s.host) (fun _ _ hu => hu) (fun _ _ hu huv => (line_host huv).trans hu)
    (fun _ hu => hu) rfl h

/-- Settles O8: acceptance latches the fields the descriptor is split into. -/
theorem acceptanceLatchesTheDescriptor : Obligations.AcceptanceLatchesTheDescriptor := by
  unfold Obligations.AcceptanceLatchesTheDescriptor
  intro s desc src dst cut rest hp hh
  refine ⟨_, step_requestByLine hp hh, rfl, rfl, rfl, rfl, rfl, ?_, toNat_field desc 3 5, toNat_field desc 8 8,
    toNat_field desc 16 16, toNat_field desc 32 16, toNat_field desc 48 8, toNat_field desc 56 8⟩
  exact (toNat_field desc 0 3).trans (congrArg (· % 8) (Nat.div_one desc.toNat))

/-- Settles O13: the descriptor check is the first of DECODE. -/
theorem reservedDescriptorPostsInvalidRequest : Obligations.ReservedDescriptorPostsInvalidRequest := by
  unfold Obligations.ReservedDescriptorPostsInvalidRequest
  intro s desc src dst rest hp hh hreserved
  rw [step_request hp hh]
  obtain ⟨t, hrun, ⟨hphase, hposted, hstatus, hvalue⟩, htrace, hbuses, hdst⟩ :=
    runRequest_refused (s := s.attach src dst none rest) rfl (lineDecode_invalidRequest (State.accept_reserved _ hreserved))
  exact ⟨t, hrun, hphase, hposted, hstatus, hvalue, htrace, hbuses, hdst⟩

/-- Settles O16: with the other checks past, a short buffer is the fault of its operation. -/
theorem shortBufferIsAModelFault : Obligations.ShortBufferIsAModelFault := by
  unfold Obligations.ShortBufferIsAModelFault
  intro s bus addr len value hr ha
  refine ⟨fun hsrc => ?write, fun hdst => ?read⟩
  case write => exact runRequest_bufferFault (.inl rfl) hr ha (State.bufferFault_shortSrc rfl hsrc)
  case read => exact runRequest_bufferFault (.inr rfl) hr ha (State.bufferFault_shortDst rfl hdst)

/-- Settles O60: what is delivered is as long as the capped answer, and a cap of 0 leaves nothing to fail. -/
theorem receiveNeverDeliversMore : Obligations.ReceiveNeverDeliversMore := by
  unfold Obligations.ReceiveNeverDeliversMore
  intro s b n
  exact ⟨s.length_rxBytes b n, s.nextRx_le n, Nat.le_zero.1 (s.nextRx_le 0)⟩

end Sys2Proof.Machine
end

section
/-! SUPPORT. The hazards of a device that ignores what it is sent without a word to the block, a locked register
(70_reset_and_hazards.md R272) and a write cycle longer than the delay (R268), and the platform's reset (R260 to R262). -/

namespace Sys2Proof.Machine

/-! ## WRITE_STATUS on a locked register (70_reset_and_hazards.md R272) -/

theorem Device.passTime_of_idle {d : Device} (hidle : d.wipMs = 0) (ms : Nat) : d.passTime ms = d := by
  rw [Device.passTime_eq, hidle, Nat.zero_sub, ← hidle]

/-- WREN, then WRSR, at a device that is idle and locked: the register is not written (43_device_commands.md R194, R197). -/
theorem Device.transaction_wren_wrsr_locked {par : Config.Params} {d : Device} (hidle : d.wipMs = 0)
    (hlocked : d.statusLocked par = true) (k k' : Nat) (v : BitVec 8) :
    ∃ w, (d.transaction par k wrenBytes true 0).transaction par k' (wrsrBytes v) true 0 = { d.closed false with wel := w } := by
  rw [wrenBytes, wrsrBytes, Device.transaction_wren, if_pos hidle, Device.transaction_wrsr]
  exact ⟨Config.freeBit k', congrArg (Device.closed false)
    (Device.doWrsr_locked (d := { d.closed false with wel := true }) k' v hidle rfl hlocked)⟩

section
variable {s : State} {bus : BitVec 8} (addr len : BitVec 16) (value : BitVec 8) {d : Device} {rest : List Bool}

/-- The device after a WRITE_STATUS whose exchanges succeed: through both transactions and the delay. -/
theorem State.statusWritten_transactions (hd : s.device bus = some d) (htx : s.txAnswers = true :: true :: rest) : ∃ k k',
    (s.statusWritten bus addr len value).device bus =
      some (((d.transaction s.par k wrenBytes true 0).transaction s.par k' (wrsrBytes value) true 0).passTime
        Config.statusWriteMs) := by
  obtain ⟨k, k', hsent⟩ := (s.started opWriteStatus .wsEnSel bus addr len value).sendStatus_device
  have hwren : (s.started opWriteStatus .wsEnSel bus addr len value).nextTx = true :=
    State.nextTx_cons (rest := true :: rest) htx
  have hwrsr : ((s.started opWriteStatus .wsEnSel bus addr len value).sendFrame wrenBytes).nextTx = true :=
    State.nextTx_cons (rest := rest) (congrArg List.tail htx)
  rw [hwren, hwrsr] at hsent
  refine ⟨k, k', ?_⟩
  rw [State.statusWritten, State.finish_device, State.delay_device]
  exact congrArg (Option.map _) (hsent.trans (congrArg (Option.map _) hd))

end

/-- Settles O24: both frames come through, so the block posts OK; the device finds its register locked, and the WRSR writes
no field of it. -/
theorem lockedStatusWriteIsSilent : Obligations.LockedStatusWriteIsSilent := by
  unfold Obligations.LockedStatusWriteIsSilent
  intro s bus addr len value d rest hr hd hidle hwpen hpin htx
  obtain ⟨k, k', hown⟩ := State.statusWritten_transactions addr len value hd htx
  obtain ⟨w, hw⟩ := Device.transaction_wren_wrsr_locked hidle (Device.statusLocked_iff.2 ⟨hwpen, hpin⟩) k k' value
  rw [hw, Device.passTime_of_idle (by exact hidle)] at hown
  exact ⟨_, w, execWriteStatus_statusWritten addr len value hr (State.lt_of_device hd) htx, ⟨rfl, rfl, rfl, rfl⟩, hown⟩

/-! ## A WRITE at a device slower than the delay (70_reset_and_hazards.md R268) -/

/-- A busy device ignores both frames of a chunk (43_device_commands.md R201). -/
theorem Device.transaction_wren_write_busy {par : Config.Params} {d : Device} (hbusy : 0 < d.wipMs) (k k' : Nat) (a : BitVec 16)
    (data : List (BitVec 8)) :
    (d.transaction par k wrenBytes true 0).transaction par k' (writeBytes a data) true 0 = d.closed false := by
  rw [wrenBytes, writeBytes, Device.transaction_wren, if_neg (Nat.ne_of_gt hbusy), Device.transaction_write,
    Device.doWrite_ignored k' a (.inl (by exact hbusy))]
  rfl

/-- The device is in a write cycle; its page from `A` on holds the first bytes of `src`, and every other byte is that of `d`. -/
structure Device.BusyWithPage (A : Nat) (src : List (BitVec 8)) (d e : Device) : Prop where
  busy  : 0 < e.wipMs
  bytes : ∀ x, Memory.read e.mem x = if A ≤ x ∧ x < (A / 16 + 1) * 16 then src.getD (x - A) 0 else Memory.read d.mem x

section
variable {s u : State} {bus : BitVec 8} {addr len : BitVec 16} {value : BitVec 8} {d e : Device}

/-- The device after a chunk whose exchanges succeed: through both transactions and the delay. -/
theorem State.chunkDone_transactions (hd : u.device u.reqBus = some d) (hwren : u.nextTx = true) (hsent : u.nextSent = true) :
    ∃ k k', u.chunkDone.device u.reqBus =
      some (((d.transaction u.par k wrenBytes true 0).transaction u.par k' (writeBytes u.curAddr u.nextData) true 0).passTime
        Config.writeCycleMs) := by
  obtain ⟨k, k', hchunk⟩ := u.sendChunk_device u.nextData
  rw [hd, hwren, hsent] at hchunk
  exact ⟨k, k', by rw [State.chunkDone, State.delay_device, hchunk]; rfl⟩

/-- The first chunk of a WRITE over more than one page fills its page, and the delay leaves the slow device in its write
cycle (43_device_commands.md R199, R205). -/
theorem State.AtPlan.chunkDone_busyWithPage (hu : u.AtPlan) (hd : u.device u.reqBus = some d) (hwf : Memory.wf d.mem)
    (hidle : d.wipMs = 0) (hin : u.curAddr.toNat < u.par.deviceSize) (hopen : d.protects u.par u.curAddr.toNat = false)
    (hslow : 4 < u.par.tWcDevice) (hwren : u.nextTx = true) (hsent : u.nextSent = true) (hoff : u.curOff.toNat = 0)
    (hn : u.nextLen ≠ u.remLen.toNat) :
    ∃ e, u.chunkDone.device u.reqBus = some e ∧ d.BusyWithPage u.curAddr.toNat u.src e := by
  obtain ⟨hfill, -⟩ := State.nextLen_lt hn
  have hlen := State.length_nextData hu
  have hsome : u.nextData ≠ [] := by
    rw [← List.length_pos_iff, hlen, hfill]
    exact (pageRemaining_bounds _).1
  have hend : u.curAddr.toNat + u.nextLen = (u.curAddr.toNat / 16 + 1) * 16 := by
    rw [hfill]
    simp only [pageRemaining, Config.pageSize]
    omega
  obtain ⟨haddr, hpage⟩ := chunk_page (r := u.remLen.toNat) hin
  have hopen' : d.protects u.par (devicePageBase u.par u.curAddr) = false := by
    refine Bool.eq_false_iff.2 fun hprotected => Bool.eq_false_iff.1 hopen (Device.protects_mono ?_ hprotected)
    exact haddr ▸ Nat.le_add_right _ _
  obtain ⟨k, k', hown⟩ := State.chunkDone_transactions hd hwren hsent
  rw [Device.transaction_wren_write k k' hidle fun _ => hopen', if_neg hsome] at hown
  refine ⟨_, hown, Nat.sub_pos_of_lt hslow, fun x => ?_⟩
  refine (Memory.read_writePage_inPage hwf (hlen ▸ hpage) x).trans ?_
  rw [haddr, hlen, hend]
  refine ite_congr rfl (fun hx => ?_) fun _ => rfl
  rw [u.nextData_getD (by omega), hoff, Nat.zero_add]

/-- A chunk at a busy device stores nothing, though the transport reports success. -/
theorem State.chunkDone_memByte_busy (he : u.device u.reqBus = some e) (hbusy : 0 < e.wipMs) (hwren : u.nextTx = true)
    (hsent : u.nextSent = true) (a : Nat) : u.chunkDone.memByte u.reqBus a = Memory.read e.mem a := by
  obtain ⟨k, k', hown⟩ := State.chunkDone_transactions he hwren hsent
  rw [Device.transaction_wren_write_busy hbusy] at hown
  exact State.memByte_of_device hown a

/-- The WRITE of two chunks in progress at `u`, at a device slower than the delay: before its first chunk the device is as it
was, before its second in the write cycle of the first. -/
inductive State.SlowProgress (bus : BitVec 8) (addr : BitVec 16) (d : Device) (u : State) : Prop
  | first (hoff : u.curOff.toNat = 0) (hcount : chunkCount u.curAddr.toNat u.remLen.toNat = 2) (hd : u.device bus = some d)
  | second {e : Device} (hcount : chunkCount u.curAddr.toNat u.remLen.toNat = 1) (he : u.device bus = some e)
      (hpage : d.BusyWithPage addr.toNat u.src e)

end

/-- Settles O41: the first chunk leaves the device in its write cycle, where it ignores the second; the block posts OK all the
same, since both frames come through. -/
theorem slowDeviceLosesTheSecondChunk : Obligations.SlowDeviceLosesTheSecondChunk := by
  unfold Obligations.SlowDeviceLosesTheSecondChunk
  intro s bus addr len value d rest hl hr ha hsrc hd hwf hidle hslow hopen hcount htx
  have hlen : 1 ≤ len.toNat := Nat.pos_of_ne_zero fun h0 => by simp [h0, chunkCount] at hcount
  have hall : s.txAnswers = List.replicate (2 * chunkCount addr.toNat len.toNat) true ++ rest := by rw [hcount]; exact htx
  refine execWrite_loop_writing (P := fun u => u.AllSucceed rest ∧ u.SlowProgress bus addr d)
    (Q := fun t => s.Finished t .ok 0 ∧ ∀ a, t.memByte bus a =
      if addr.toNat ≤ a ∧ a < (addr.toNat / 16 + 1) * 16 then s.src.getD (a - addr.toNat) 0 else s.memByte bus a)
    value hr ha hsrc (ha.2.2.trans hl.2.1) ?failed ?last ?next ?start
  case failed =>
    intro u _ _ h hfailed
    exact absurd (h.1.nextSent.symm.trans hfailed) (by decide)
  case last =>
    rintro u - hw ⟨hall, hprogress⟩ hsent hlast
    have hone := State.chunkCount_last hlast
    cases hprogress with
    | first _ htwo _ => omega
    | second _ he hpage =>
      refine ⟨State.finished_done hw.posted, fun a => ?_⟩
      obtain rfl := hw.reqBus
      rw [State.finish_memByte, State.chunkDone_memByte_busy he hpage.busy hall.nextTx hsent, hpage.bytes, hw.src,
        State.memByte_of_device hd]
  case next =>
    rintro u hu hw ⟨hall, hprogress⟩ hsent hn
    have hfewer := hu.chunkCount_nextPlan hn
    refine ⟨hall.nextPlan hu hn, ?_⟩
    cases hprogress with
    | first hoff htwo hd =>
      obtain rfl := hw.reqBus
      have haddr : u.curAddr.toNat = addr.toNat := by rw [hw.address, hoff, Nat.add_zero]
      have hpar := hw.par
      obtain ⟨e, he, hpage⟩ := hu.chunkDone_busyWithPage hd hwf hidle (hw.in_array ha)
        (by rw [haddr, hpar]; exact hopen _ le_rfl (by omega)) (hpar ▸ hslow) hall.nextTx hsent hoff hn
      exact .second (by omega) he (by rw [u.nextPlan_src, ← haddr]; exact hpage)
    | second hone _ _ =>
      have := chunkCount_pos u.nextPlan.curAddr.toNat u.nextPlan.remLen.toNat
      omega
  case start =>
    exact ⟨hall, .first rfl hcount hd⟩

/-! ## The platform's reset (70_reset_and_hazards.md R260 to R262) -/

section
variable {par : Config.Params}

theorem dropChipSelect_cs (k : Nat) (u : BusUnit) : (dropChipSelect par k u).cs = false := by
  unfold dropChipSelect
  split
  · rfl
  · rename_i hcs
    exact Bool.eq_false_iff.2 hcs

theorem dropChipSelect_of_released (k : Nat) {u : BusUnit} (hcs : u.cs = false) : dropChipSelect par k u = u :=
  if_neg (by simp [hcs])

/-- Where CS was 1 the device's frame ends as a Deselect with TAINT = 1. -/
theorem dropChipSelect_dev_of_asserted (k : Nat) {u : BusUnit} (hcs : u.cs = true) :
    (dropChipSelect par k u).dev = Device.onDeselect par k { u.dev with taint := true } := by
  rw [dropChipSelect, if_pos hcs]

/-- Each bus's line is dropped, with free values of its own. -/
theorem getElem?_dropChipSelects : ∀ (us : List BusUnit) (k i : Nat),
    (dropChipSelects par k us)[i]? = us[i]?.map (dropChipSelect par (k + deselectDraws * i)) := by
  intro us
  induction us with
  | nil => exact fun _ _ => rfl
  | cons u us ih =>
    intro k i
    cases i with
    | zero => rfl
    | succ i =>
      rw [dropChipSelects, List.getElem?_cons_succ, List.getElem?_cons_succ, ih, Nat.mul_succ,
        Nat.add_comm (deselectDraws * i), Nat.add_assoc]

end

section
variable {s : State} {b : BitVec 8}

theorem State.platformReset_buses (s : State) (b : BitVec 8) :
    s.platformReset.buses[b.toNat]? =
      s.buses[b.toNat]?.map (dropChipSelect s.par (s.draws + deselectDraws * b.toNat)) :=
  getElem?_dropChipSelects s.buses s.draws b.toNat

theorem State.platformReset_chipSelect (hb : b.toNat < s.numBuses) : s.platformReset.chipSelect b = some false := by
  rw [State.chipSelect, s.platformReset_buses, List.getElem?_eq_getElem hb]
  exact congrArg some (dropChipSelect_cs _ _)

/-- A device whose chip-select is 0 is not reset (70_reset_and_hazards.md R262). -/
theorem State.platformReset_device_of_released (hcs : s.chipSelect b = some false) :
    s.platformReset.device b = s.device b := by
  obtain ⟨u, hu, hline⟩ := Option.map_eq_some_iff.1 hcs
  rw [State.device, State.device, s.platformReset_buses, hu, Option.map_some, dropChipSelect_of_released _ hline]

/-- A device whose chip-select is 1 ends its frame as a failed one (70_reset_and_hazards.md R261). -/
theorem State.platformReset_device_of_asserted {d : Device} (hd : s.device b = some d) (hcs : s.chipSelect b = some true) :
    ∃ k, s.platformReset.device b = some (Device.onDeselect s.par k { d with taint := true }) := by
  obtain ⟨u, hu, rfl⟩ := Option.map_eq_some_iff.1 hd
  have hline : u.cs = true := by simpa [State.chipSelect, hu] using hcs
  refine ⟨s.draws + deselectDraws * b.toNat, ?_⟩
  rw [State.device, s.platformReset_buses, hu]
  exact congrArg some (dropChipSelect_dev_of_asserted _ hline)

/-- Past the bytes put in its front a buffer is as it was. -/
theorem drop_overwritePrefix (buf : List (BitVec 8)) {xs : List (BitVec 8)} {n : Nat} (h : xs.length ≤ n) :
    (overwritePrefix buf xs).drop n = buf.drop n := by
  rw [overwritePrefix, List.drop_append, List.drop_eq_nil_of_le h, List.nil_append, List.drop_drop, Nat.add_sub_cancel' h]

/-- An abandoned READ frees no byte of DST from LEN on (log entry 19). -/
theorem State.drop_abandonedDst (s : State) : s.abandonedDst.drop s.reqLen.toNat = s.dst.drop s.reqLen.toNat := by
  unfold State.abandonedDst
  split
  · exact drop_overwritePrefix _ (by rw [length_anyBytes]; exact Nat.min_le_left _ _)
  · rfl

/-- Only an abandoned READ frees bytes of DST. -/
theorem State.abandonedDst_eq (h : s.phase = .idle ∨ s.reqOp ≠ opRead) : s.abandonedDst = s.dst :=
  if_neg fun ⟨hbusy, hread, _⟩ => h.elim hbusy (· hread)

theorem tick_of_reset (h : s.resetIn = some 0) : tick s = .next s.platformReset := by simp only [tick, h]

/-- The step that takes the platform's reset, in IDLE or before a line (log entry 20), takes the host's action at most. -/
theorem step_platformReset
    (h : (s.phase ≠ .idle ∧ s.resetIn = some 0) ∨ (s.phase = .idle ∧ ∃ rest, s.host = .reset :: rest)) :
    ∃ host, step s = .next { s with host := host }.platformReset := by
  obtain ⟨hbusy, hreset⟩ | ⟨hidle, rest, hhost⟩ := h
  · exact ⟨s.host, (step_busy hbusy).trans (tick_of_reset hreset)⟩
  · exact ⟨rest, step_reset hidle hhost⟩

end

/-- Settles O55: the step is the platform's reset, which drops every chip-select, and the devices of the lines that were 1 end
their frames as failed ones. -/
theorem resetReturnsToIdle : Obligations.ResetReturnsToIdle := by
  unfold Obligations.ResetReturnsToIdle
  intro s h
  obtain ⟨host, hstep⟩ := step_platformReset h
  obtain ⟨-, hbuses⟩ := State.platformReset_sameParameters { s with host := host }
  refine ⟨_, hstep, rfl, rfl, rfl, hbuses, rfl, State.drop_abandonedDst { s with host := host },
    State.abandonedDst_eq (s := { s with host := host }), fun b => State.platformReset_chipSelect (s := { s with host := host }),
    fun b => State.platformReset_device_of_released (s := { s with host := host }), fun b d hd hselected hcs => ?_⟩
  obtain ⟨k, hown⟩ := State.platformReset_device_of_asserted (s := { s with host := host }) hd hcs
  exact ⟨_, hown, rfl, rfl, Device.onDeselect_mayFollowFailed s.par k hselected⟩

end Sys2Proof.Machine
end
